-- ==== Sys2Proof/Word.lean ====
section
/-! DEFINITION. The word types of FRAMER: a byte is 8 bits, the two wide fields of a frame are 16 bits
(00_scope.md R10). -/

namespace Sys2Proof

/-- A byte (R10). -/
abbrev Byte := BitVec 8

/-- An unsigned 16-bit value, the spec's `u16` (R10): `magic`, `payloadLength`, `rem_payload`, PAY's index. -/
abbrev Half := BitVec 16

end Sys2Proof
end

