-- ==== Sys2Proof/Config.lean ====
section
/-! DEFINITION. What is fixed before any session runs (00_scope.md R9, 10_state.md R35): the constants of the wire format,
and the parameters. The parameters are plain data, kept in a field of State that no operation writes, so that a statement
about every state holds for every value of them (log entry 2). -/

namespace Sys2Proof

/-- HEADER_SIZE (R9). -/
def headerSize : Nat := 6

/-- FOOTER_SIZE (R9). -/
def footerSize : Nat := 2

/-- TERMINATOR, the last byte of every frame (R9, R87). -/
def terminator : Byte := 0xFF

/-- CK_SEED0, the seed every packet's checksum starts from (R9, R119). -/
def ckSeed0 : Byte := 0x00

/-- MAX_PAYLOAD (R9, R96). -/
def maxPayload : Nat := 65535

/-- HDRBUF_CAP (R9, R24): the length of `hdr_buf`. -/
abbrev hdrbufCap : Nat := 6

/-- MAGIC_ALT (R9): the second constant the source defines; recorded, and read by no rule (C1). -/
def magicAlt : Half := 0x78A3

/-- CMD_STATUS, the one catalog value the source gives (R192). -/
def cmdStatus : Byte := 0xA3

/-- The parameter CK_STEP (R9, R118): the two candidates the spec names, and ANY total function of two bytes, given by its
table of values, the value at `(s, b)` standing at index `256 * s + b` (log entry 3). -/
inductive CkStep where
  | sum8
  | crc8_07
  | table (values : Vector Byte 65536)
  deriving DecidableEq, Repr

/-- The eight entries of the closed catalog (43_command_catalog.md R190, R192). -/
inductive CatEntry where
  | printData | status | setHeat | printCtrl | setEnergy | draftMode | feedSpeed | printDataCompressed
  deriving DecidableEq, Repr

/-- The parameter CATALOG (R9, R192): the seven values that are parameters. CMD_STATUS is fixed and so no field. -/
structure Catalog where
  printData : Byte
  setHeat : Byte
  printCtrl : Byte
  setEnergy : Byte
  draftMode : Byte
  feedSpeed : Byte
  printDataCompressed : Byte
  deriving DecidableEq, Repr

/-- The parameters of R9 but N_SESSIONS, which is the number of sessions State holds. -/
structure Config where
  magic : Half
  ckStep : CkStep
  encDirection : Byte
  catalog : Catalog
  deriving DecidableEq, Repr

/-- The catalog's default values (R192). PRESUMED: all seven are general knowledge the spec itself marks so (G2). -/
def Catalog.default : Catalog :=
  { printData := 0xA2, setHeat := 0xA4, printCtrl := 0xA6, setEnergy := 0xAF, draftMode := 0xBE, feedSpeed := 0xBD,
    printDataCompressed := 0xBF }

/-- The default values of R9. -/
def Config.default : Config :=
  { magic := 0x7851, ckStep := .sum8, encDirection := 0x00, catalog := Catalog.default }

/-- The number of session instances at reset. DESIGN CHOICE: the spec gives N_SESSIONS no value and says a model may take
1 (D27); log entry 1. -/
def nSessionsAtReset : Nat := 1

end Sys2Proof
end

