-- ==== Sys2Proof/Syntax.lean ====
section
/-! DEFINITION. The operations of FRAMER as one inductive type, one constructor per row of the operation table
(30_encoding.md R91, R106), and the raw requests they are decoded from. -/

namespace Sys2Proof

/-- A frame's header as parsed (10_state.md R26, 30_encoding.md R81). -/
structure Header where
  magic : Half
  command : Byte
  direction : Byte
  payloadLength : Half
  deriving DecidableEq, Repr

/-- A frame's footer (30_encoding.md R87). -/
structure Footer where
  checksum : Byte
  terminator : Byte
  deriving DecidableEq, Repr

/-- The `Decoded` result of DEC.ATOMIC (41_codec.md R132); the payload is a view: an offset and a length into SRC (R64). -/
structure Decoded where
  header : Header
  command : Byte
  payloadOffset : Nat
  payloadLength : Nat
  footer : Footer
  deriving DecidableEq, Repr

/-- The 29 rows of the operation table, each with the operands the table gives it. -/
inductive Instr where
  -- format WIRE
  | frameHeader (command direction : Byte) (length : Half)
  | frameFooter (checksum : Byte)
  -- format CMD8
  | printData
  | status
  | setHeat
  | printCtrl
  | setEnergy
  | draftMode
  | feedSpeed
  | printDataCompressed
  -- format SEL5
  | sDropClosed (b : Byte)
  | sDropFault (b : Byte)
  | sHdrbuf (b : Byte)
  | sHdrend (b : Byte)
  | sPay (b : Byte)
  | sFck (b : Byte)
  | sFterm (b : Byte)
  -- format EVENT
  | rst
  | sOpen
  | sClose
  | sDeliver (chunk : List Byte)
  | sByte (b : Byte)
  -- format CALL
  | ckStep (s b : Byte)
  | ckCalc (bytes : List Byte) (length : Nat) (seed : Byte)
  | ckClr
  | encBuild (command : Byte) (payload : List Byte) (cap : Nat)
  | decAtomic (bytes : List Byte)
  | decVerify (bytes : List Byte) (d : Decoded)
  | catName (c : Byte)
  deriving DecidableEq, Repr

/-- The seven byte-step operations the selector chooses among (30_encoding.md R98). -/
inductive SelOp where
  | dropClosed | dropFault | hdrBuf | hdrEnd | pay | fck | fterm
  deriving DecidableEq, Repr

/-- The input events one port cycle can carry (10_state.md R45). -/
inductive PortEvent where
  | rst | close | opened | byte
  deriving DecidableEq, Repr

/-- A call of a function of format CALL with the arguments its row names (30_encoding.md R106); CK.CALC's seed may be left
out (40_checksum.md R112). -/
inductive Call where
  | ckStep (s b : Byte)
  | ckCalc (bytes : List Byte) (length : Nat) (seed : Option Byte)
  | ckClr
  | encBuild (command : Byte) (payload : List Byte) (cap : Nat)
  | decAtomic (bytes : List Byte)
  | decVerify (bytes : List Byte) (d : Decoded)
  | catName (c : Byte)
  deriving DecidableEq, Repr

/-- A raw request, before decoding: one constructor per way the operation table selects a row (R106). The patterned formats
carry the bits the table gives; DELIVER and CALL have no bits in the spec and none are made up for them (log entry 5). -/
inductive Word where
  /-- format WIRE: bytes in wire order (R89). -/
  | wire (bytes : List Byte)
  /-- format CMD8: a command byte. -/
  | cmd8 (c : Byte)
  /-- format SEL5: the selector of R98 and the input byte. -/
  | sel5 (sel : BitVec 5) (b : Byte)
  /-- format EVENT: one port cycle, in4 = (rst, session_close, session_open, in_valid) from bit 3 down, and in_data. -/
  | ports (in4 : BitVec 4) (data : Byte)
  /-- format EVENT, row S.DELIVER: a chunk. -/
  | deliver (chunk : List Byte)
  /-- format CALL: a function with its arguments. -/
  | call (c : Call)
  deriving DecidableEq, Repr

/-- Why a request stands for no instruction. Only these two patterns are left over by the operation table: WIRE bytes of any
other shape still arrive on STREAM, and a command byte without an entry is still looked up. -/
inductive Reject where
  /-- a selector that matches no row (R99). -/
  | noSelectorRow
  /-- a port cycle with no input at 1: no event (R47, R106). -/
  | noEvent
  deriving DecidableEq, Repr

/-- What decoding a request answers. -/
inductive Parsed where
  | instr (i : Instr)
  | reject (e : Reject)
  deriving DecidableEq, Repr

/-- The formats of the operation table (R106). -/
inductive Format where
  | wire | cmd8 | sel5 | event | call
  deriving DecidableEq, Repr

end Sys2Proof
end

