-- ==== Sys2Proof/WellFormed.lean ====
section
/-! DEFINITION. Which instructions have operands within the ranges the operation table gives them: the preconditions the
spec places on the caller of a codec or checksum function (40_checksum.md R112, R115; 41_codec.md R129, R131, R137). -/

namespace Sys2Proof

/-- CK.CALC's operand `n` is at most the number of bytes (R112). -/
def wfCkCalc (bytes : List Byte) (length : Nat) : Bool := length ≤ bytes.length

/-- ENC.BUILD's payload fits the length field (R131). -/
def wfEncLength (payload : List Byte) : Bool := payload.length ≤ maxPayload

/-- ENC.BUILD's destination holds the frame (R129), the sizes being exact (R136). -/
def wfEncCap (payload : List Byte) (cap : Nat) : Bool := headerSize + payload.length + footerSize ≤ cap

/-- DEC.VERIFY's payload lies within its bytes (R137: `d` is a result of DEC.ATOMIC on `bytes`). -/
def wfDecVerify (bytes : List Byte) (d : Decoded) : Bool := headerSize + d.header.payloadLength.toNat ≤ bytes.length

/-- The operands are within their ranges. Every other row takes any value of its operands (R94, R95, R96, R172). -/
def Instr.wf : Instr → Bool
  | .ckCalc bytes length _ => wfCkCalc bytes length
  | .encBuild _ payload cap => wfEncLength payload && wfEncCap payload cap
  | .decVerify bytes d => wfDecVerify bytes d
  | .frameHeader _ _ _ | .frameFooter _ => true
  | .printData | .status | .setHeat | .printCtrl | .setEnergy | .draftMode | .feedSpeed | .printDataCompressed => true
  | .sDropClosed _ | .sDropFault _ | .sHdrbuf _ | .sHdrend _ | .sPay _ | .sFck _ | .sFterm _ => true
  | .rst | .sOpen | .sClose | .sDeliver _ | .sByte _ => true
  | .ckStep _ _ | .ckClr | .decAtomic _ | .catName _ => true

end Sys2Proof
end

