-- ==== Sys2Proof/Decode.lean ====
section
/-! DEFINITION. From raw requests to instructions and back: the assembly of a header's fields (30_encoding.md R82, R83, R90),
the pattern rows of the operation table (R89, R98, R106, R191), `decode`, total on every request, and `encode`. -/

namespace Sys2Proof

/-! ## Byte order and header assembly -/

/-- Bits 7..0 of a 16-bit field, the byte sent first (20_memory.md R65). -/
def loByte (w : Half) : Byte := w.extractLsb' 0 8

/-- Bits 15..8 of a 16-bit field, the byte sent second (R65). -/
def hiByte (w : Half) : Byte := w.extractLsb' 8 8

/-- The concatenation `(hi, lo)` of R10. -/
def joinBytes (hi lo : Byte) : Half := hi ++ lo

/-- `parse_header` (R90): total, and it does not look at the magic's value. -/
def parseHeader (b0 b1 b2 b3 b4 b5 : Byte) : Header :=
  { magic := joinBytes b1 b0, command := b2, direction := b3, payloadLength := joinBytes b5 b4 }

/-- `header_bytes` (R90), in wire order. -/
def headerBytes (h : Header) : List Byte :=
  [loByte h.magic, hiByte h.magic, h.command, h.direction, loByte h.payloadLength, hiByte h.payloadLength]

/-! ## The pattern rows -/

/-- A SEL5 row: it matches when `sel AND mask = pattern` (R98). -/
structure SelRow where
  op : SelOp
  pattern : BitVec 5
  mask : BitVec 5
  deriving DecidableEq, Repr

/-- The seven rows of R98. -/
def selRows : List SelRow :=
  [⟨.dropClosed, 0b00000, 0b10000⟩, ⟨.dropFault, 0b11000, 0b11000⟩, ⟨.hdrBuf, 0b10000, 0b11111⟩,
   ⟨.hdrEnd, 0b10001, 0b11111⟩, ⟨.pay, 0b10010, 0b11110⟩, ⟨.fck, 0b10100, 0b11111⟩, ⟨.fterm, 0b10101, 0b11111⟩]

/-- The first row that matches a selector, if any (R98, R99). -/
def decodeSel (sel : BitVec 5) : Option SelOp :=
  (selRows.find? fun r => sel &&& r.mask == r.pattern).map (·.op)

/-- A row over the port vector in4 (R106). -/
structure PortRow where
  event : PortEvent
  pattern : BitVec 4
  mask : BitVec 4
  deriving DecidableEq, Repr

/-- The four rows of R106; they restate the priority of 10_state.md R47. -/
def portRows : List PortRow :=
  [⟨.rst, 0x8, 0x8⟩, ⟨.close, 0x4, 0xC⟩, ⟨.opened, 0x2, 0xE⟩, ⟨.byte, 0x1, 0xF⟩]

/-- The event one port cycle carries; none when no input is at 1 (R47). -/
def decodePorts (in4 : BitVec 4) : Option PortEvent :=
  (portRows.find? fun r => in4 &&& r.mask == r.pattern).map (·.event)

/-- The value of a catalog entry (43_command_catalog.md R192). -/
def catValue (cat : Catalog) : CatEntry → Byte
  | .printData => cat.printData
  | .status => cmdStatus
  | .setHeat => cat.setHeat
  | .printCtrl => cat.printCtrl
  | .setEnergy => cat.setEnergy
  | .draftMode => cat.draftMode
  | .feedSpeed => cat.feedSpeed
  | .printDataCompressed => cat.printDataCompressed

/-- The entries in the order CAT.NAME tries them (R191). -/
def catEntries : List CatEntry :=
  [.printData, .status, .setHeat, .printCtrl, .setEnergy, .draftMode, .feedSpeed, .printDataCompressed]

/-- The first entry whose value a command byte is, if any (R191; each CMD8 row's mask is 0xFF). -/
def catEntryOf (cat : Catalog) (c : Byte) : Option CatEntry :=
  catEntries.find? fun e => c &&& 0xFF == catValue cat e

/-- The eight values are pairwise distinct, which R192 asks of every catalog. -/
def Catalog.wf (cat : Catalog) : Bool := decide (catEntries.map (catValue cat)).Nodup

/-- A configuration the spec allows: of the parameters only the catalog is restricted (R9, R192). -/
def Config.wf (cfg : Config) : Bool := cfg.catalog.wf

/-! ## decode -/

/-- Format WIRE (R81, R87, R89). Bytes that match neither pattern are delivered all the same: a wrong magic is fatal to the
session (R92) and a wrong terminator a reported violation (R93), both by the bytes' own steps (log entry 18). -/
def decodeWire (cfg : Config) : List Byte → Instr
  | [b0, b1, b2, b3, b4, b5] =>
    let h := parseHeader b0 b1 b2 b3 b4 b5
    if h.magic = cfg.magic then .frameHeader h.command h.direction h.payloadLength else .sDeliver [b0, b1, b2, b3, b4, b5]
  | [k, t] => if t = terminator then .frameFooter k else .sDeliver [k, t]
  | bytes => .sDeliver bytes

/-- The instruction of a catalog entry's row. -/
def catInstr : CatEntry → Instr
  | .printData => .printData
  | .status => .status
  | .setHeat => .setHeat
  | .printCtrl => .printCtrl
  | .setEnergy => .setEnergy
  | .draftMode => .draftMode
  | .feedSpeed => .feedSpeed
  | .printDataCompressed => .printDataCompressed

/-- Format CMD8 (R191): the rows are the encoding of CAT.NAME, which is total; a byte that matches none of them is looked up
by CAT.NAME itself, whose result is then `unknown` (log entry 19). -/
def decodeCmd8 (cfg : Config) (c : Byte) : Instr :=
  match catEntryOf cfg.catalog c with
  | some e => catInstr e
  | none => .catName c

/-- The instruction of a byte-step operation on byte `b`. -/
def selInstr (op : SelOp) (b : Byte) : Instr :=
  match op with
  | .dropClosed => .sDropClosed b
  | .dropFault => .sDropFault b
  | .hdrBuf => .sHdrbuf b
  | .hdrEnd => .sHdrend b
  | .pay => .sPay b
  | .fck => .sFck b
  | .fterm => .sFterm b

/-- Format SEL5 (R98). -/
def decodeSel5 (sel : BitVec 5) (b : Byte) : Parsed :=
  match decodeSel sel with
  | some op => .instr (selInstr op b)
  | none => .reject .noSelectorRow

/-- Format EVENT at port level (R47, R106). -/
def decodeEvent (in4 : BitVec 4) (data : Byte) : Parsed :=
  match decodePorts in4 with
  | some .rst => .instr .rst
  | some .close => .instr .sClose
  | some .opened => .instr .sOpen
  | some .byte => .instr (.sByte data)
  | none => .reject .noEvent

/-- Format CALL, CK.CALC's seed being CK_SEED0 where it is left out (R112). -/
def decodeCall : Call → Instr
  | .ckStep s b => .ckStep s b
  | .ckCalc l n seed => .ckCalc l n (seed.getD ckSeed0)
  | .ckClr => .ckClr
  | .encBuild c p cap => .encBuild c p cap
  | .decAtomic l => .decAtomic l
  | .decVerify l d => .decVerify l d
  | .catName c => .catName c

/-- The instruction a request stands for, or why it stands for none. -/
def decode (cfg : Config) : Word → Parsed
  | .wire bytes => .instr (decodeWire cfg bytes)
  | .cmd8 c => .instr (decodeCmd8 cfg c)
  | .sel5 sel b => decodeSel5 sel b
  | .ports in4 data => decodeEvent in4 data
  | .deliver chunk => .instr (.sDeliver chunk)
  | .call c => .instr (decodeCall c)

/-! ## encode -/

/-- The request of an instruction, with the bits its row gives it: the pattern string for WIRE, the match value for CMD8,
SEL5 and EVENT (the bits outside the mask at 0). -/
def encode (cfg : Config) : Instr → Word
  | .frameHeader c d l => .wire (headerBytes { magic := cfg.magic, command := c, direction := d, payloadLength := l })
  | .frameFooter k => .wire [k, terminator]
  | .printData => .cmd8 cfg.catalog.printData
  | .status => .cmd8 cmdStatus
  | .setHeat => .cmd8 cfg.catalog.setHeat
  | .printCtrl => .cmd8 cfg.catalog.printCtrl
  | .setEnergy => .cmd8 cfg.catalog.setEnergy
  | .draftMode => .cmd8 cfg.catalog.draftMode
  | .feedSpeed => .cmd8 cfg.catalog.feedSpeed
  | .printDataCompressed => .cmd8 cfg.catalog.printDataCompressed
  | .sDropClosed b => .sel5 0b00000 b
  | .sDropFault b => .sel5 0b11000 b
  | .sHdrbuf b => .sel5 0b10000 b
  | .sHdrend b => .sel5 0b10001 b
  | .sPay b => .sel5 0b10010 b
  | .sFck b => .sel5 0b10100 b
  | .sFterm b => .sel5 0b10101 b
  | .rst => .ports 0b1000 0
  | .sOpen => .ports 0b0010 0
  | .sClose => .ports 0b0100 0
  | .sDeliver chunk => .deliver chunk
  | .sByte b => .ports 0b0001 b
  | .ckStep s b => .call (.ckStep s b)
  | .ckCalc l n seed => .call (.ckCalc l n (some seed))
  | .ckClr => .call .ckClr
  | .encBuild c p cap => .call (.encBuild c p cap)
  | .decAtomic l => .call (.decAtomic l)
  | .decVerify l d => .call (.decVerify l d)
  | .catName c => .call (.catName c)

/-- The format of a request. -/
def wordFormat : Word → Format
  | .wire _ => .wire
  | .cmd8 _ => .cmd8
  | .sel5 _ _ => .sel5
  | .ports _ _ => .event
  | .deliver _ => .event
  | .call _ => .call

/-! ## Words numbered as the operation table numbers them -/

/-- `n` bytes of a pattern read as one number, leftmost (most significant) byte first, which is wire order (R89). -/
def patternBytes (w : Nat) : Nat → List Byte
  | 0 => []
  | n + 1 => BitVec.ofNat 8 (w >>> (8 * n)) :: patternBytes w n

/-- The request of a table word of `nbits` bits (log entry 20). A WIRE pattern is 48 or 16 bits. A one-byte word is read by
its value, since three formats share the size: 0x00 and 0x10 to 0x1F as a selector with an open or fault bit to test,
0x01 to 0x0F as a port vector, any other as a command byte; the operand byte is 0. -/
def tableWord (nbits w : Nat) : Option Word :=
  if nbits = 48 then some (.wire (patternBytes w 6))
  else if nbits = 16 then some (.wire (patternBytes w 2))
  else if nbits = 5 then some (.sel5 (BitVec.ofNat 5 w) 0)
  else if nbits = 4 then some (.ports (BitVec.ofNat 4 w) 0)
  else if nbits = 8 then
    if w = 0 then some (.sel5 0 0)
    else if w < 16 then some (.ports (BitVec.ofNat 4 w) 0)
    else if w < 32 then some (.sel5 (BitVec.ofNat 5 w) 0)
    else some (.cmd8 (BitVec.ofNat 8 w))
  else none

/-- The instruction `decode` reads from a table word, at the default parameters. -/
def decodeTableWord (nbits w : Nat) : Option Instr :=
  match tableWord nbits w with
  | some word =>
    match decode Config.default word with
    | .instr i => some i
    | .reject _ => none
  | none => none

end Sys2Proof
end

