-- ==== Sys2Proof/Machine/State.lean ====
section
/-! DEFINITION. The state of FRAMER as plain data: the registers of each session instance (10_state.md R20 to R31), the
output trace of each (R42), the configuration constants (R35), the caller's buffer and returned value, and the input the
transport has still to give. The ways a step can stop, and the state after reset (70_reset_and_hazards.md R240). -/

namespace Sys2Proof.Machine

/-- The three states (R23). There is no fourth value (R97, R99). -/
inductive PState where
  | awaitingHeader | awaitingPayload | awaitingFooter
  deriving DecidableEq, Repr

/-- The registers of one session instance (R21 to R30). `hdr_cnt` and `rem_footer` have the ranges of R25 and R28, as
93_implementation_defined.md U5 asks. -/
structure Regs where
  /-- `open` (R21). -/
  isOpen : Bool
  /-- `fault` (R22). -/
  fault : Bool
  /-- `state` (R23). -/
  state : PState
  /-- `hdr_buf[0..5]` (R24). -/
  hdrBuf : Vector Byte hdrbufCap
  /-- `hdr_cnt` (R25). -/
  hdrCnt : Fin 6
  /-- `hdr` (R26). -/
  hdr : Header
  /-- `rem_payload` (R27). -/
  remPayload : Half
  /-- `rem_footer` (R28). -/
  remFooter : Fin 3
  /-- `cksum` (R29). -/
  cksum : Byte
  /-- `ck_bad` (R30). -/
  ckBad : Bool
  deriving DecidableEq, Repr

/-- The output events (R42). REJECT's `reason` is the bit set of 30_encoding.md R100. -/
inductive OutEvent where
  | pay (index : Half) (byte : Byte)
  | diagCk (computed received : Byte)
  | accept (command direction : Byte) (length : Half)
  | reject (reason : BitVec 3) (magic : Half) (command direction : Byte) (length : Half)
  deriving DecidableEq, Repr

/-- One session instance: its registers, and what the model keeps beside them of its output. -/
structure Session where
  regs : Regs
  /-- SINK (20_memory.md R61): the events emitted, in order. -/
  sink : List OutEvent
  /-- How many events had been emitted when the present session's trace began: at the last OPEN, CLOSE or RST (R43, R44). The
  model's own field (log entry 12). -/
  sinkMark : Nat
  /-- The run has reached S.DROP_CLOSED, so it is outside the contract (42_stream_parser.md R155). The model's own field (log
  entry 13). -/
  outside : Bool
  deriving DecidableEq, Repr

/-- DecodeError (30_encoding.md R101). -/
inductive DecodeError where
  | tooShort | badMagic
  deriving DecidableEq, Repr

/-- What DEC.ATOMIC returns (41_codec.md R132, R140). -/
inductive AtomicResult where
  | decoded (d : Decoded)
  | error (e : DecodeError)
  deriving DecidableEq, Repr

/-- What CAT.NAME returns (43_command_catalog.md R191). -/
inductive CatName where
  | known (e : CatEntry)
  | unknown
  deriving DecidableEq, Repr

/-- What a CALL returns to its caller (R106). -/
inductive Ret where
  | checksum (v : Byte)
  | frame (bytes : List Byte)
  | atomic (r : AtomicResult)
  | reason (r : BitVec 2)
  | name (n : CatName)
  deriving DecidableEq, Repr

/-- A byte space as a list of indices and bytes: indices strictly rising, one entry for each byte written. -/
abbrev Memory := List Host.Cell

/-- What a byte nothing has written reads as: it has no value (log entry 9). -/
def Memory.unlisted : Option Byte := none

/-- A pending request: which session instance it is addressed to (R39), and its bits. -/
structure Request where
  session : Nat
  word : Word
  deriving DecidableEq, Repr

structure State where
  /-- The configuration constants (R35): written by no operation. -/
  cfg : Config
  /-- The session instances (R20); how many there are is N_SESSIONS. -/
  sessions : List Session
  /-- DST, the caller's destination buffer (20_memory.md R61). -/
  dst : Memory
  /-- What the last CALL returned; the model's own field (log entry 11). -/
  ret : Option Ret
  /-- The rest of the run's input sequence (00_scope.md R8), oldest first; the model's own form (log entry 4). -/
  pending : List Request
  /-- The instance the event in service is addressed to (R39); the model's own field (log entry 7). -/
  target : Nat
  deriving DecidableEq, Repr

/-- How a step stops the machine. -/
inductive Fault where
  /-- A byte arrives in a session register state the invariants exclude (93_implementation_defined.md U5, U9: `stuck`). Raised
  by S.BYTE, S.DELIVER, the SEL5 operations and the WIRE rows. Safe: no run from reset reaches such a state. -/
  | stuck
  /-- An event is addressed to a session instance that does not exist (R20). Raised by every operation on a session. Safe. -/
  | noSuchSession
  /-- A SEL5 request whose selector matches no row, `state` being 11 (30_encoding.md R99, U9: `stuck`). Raised by the step.
  Safe: no session's selector has that value. -/
  | noSelectorRow
  deriving DecidableEq, Repr

/-- Why a step gives no meaning. -/
inductive Refusal where
  /-- An instruction that has no meaning yet. Raised by exec's arm alone. Safe. -/
  | notModelled (mnemonic : String)
  /-- A SEL5 operation presented where the session's selector picks another row (30_encoding.md R98). Raised by the seven
  SEL5 operations. Safe: a byte reaches its operation through S.BYTE. -/
  | notSelected (op : SelOp)
  /-- CK.CALC or DEC.VERIFY reads beyond its bytes (40_checksum.md R115, U1: `refuse`). Safe. -/
  | readsBeyondSource
  /-- ENC.BUILD with `cap < 8 + L` (41_codec.md R129, R130, U2: `refuse`). Safe. -/
  | encodeCapacity
  /-- ENC.BUILD with `L > 65535` (41_codec.md R130, R131, U2: `refuse`). Safe. -/
  | encodeTooLong
  deriving DecidableEq, Repr

/-- All header fields 0 (R240). -/
def headerZero : Header := { magic := 0, command := 0, direction := 0, payloadLength := 0 }

/-- Every register at the reset value R240 gives it. -/
def Regs.reset : Regs :=
  { isOpen := false, fault := false, state := .awaitingHeader, hdrBuf := Vector.replicate hdrbufCap 0x00, hdrCnt := 0,
    hdr := headerZero, remPayload := 0, remFooter := 0, cksum := 0x00, ckBad := false }

/-- A session instance at reset: CLOSED (R240), its trace empty (00_scope.md R8). -/
def Session.reset : Session := { regs := Regs.reset, sink := [], sinkMark := 0, outside := false }

/-- The machine right after reset: the default parameters, every instance CLOSED, no input pending. -/
def State.reset : State :=
  { cfg := Config.default, sessions := List.replicate nSessionsAtReset Session.reset, dst := [], ret := none, pending := [],
    target := 0 }

end Sys2Proof.Machine
end

