-- ==== Sys2Proof/Machine/Ops.lean ====
section
/-! DEFINITION. The named operations every meaning is written with: sequencing of outcomes, a byte space, the addressed
session, emitting an event, raising an error (60_exceptions.md R205) and the resets that are the only way out of one (R218). -/

namespace Sys2Proof.Machine

/-! ## Outcomes -/

/-- Go on with the next state; a fault or a refusal stands. -/
def andThen {α β : Type} (o : Host.Outcome α Fault Refusal) (f : α → Host.Outcome β Fault Refusal) :
    Host.Outcome β Fault Refusal :=
  match o with
  | .next a => f a
  | .fault r => .fault r
  | .refused r => .refused r

/-! ## A byte space -/

/-- `MemRead(space, a, 1)` (00_scope.md R12); none where nothing has been written. -/
def memRead : Memory → Nat → Option Byte
  | [], _ => Memory.unlisted
  | (k, v) :: m, a => if k = a then some v else memRead m a

/-- `MemWrite(space, a, 1, v)` (R12), in the one canonical form. -/
def memWrite : Memory → Nat → Byte → Memory
  | [], a, v => [(a, v)]
  | (k, w) :: m, a, v => if a < k then (a, v) :: (k, w) :: m else if a = k then (a, v) :: m else (k, w) :: memWrite m a v

/-- The bytes of a list written at index `a` and on, in order. -/
def memWriteList : Memory → Nat → List Byte → Memory
  | m, _, [] => m
  | m, a, b :: bs => memWriteList (memWrite m a b) (a + 1) bs

/-- The canonical form: every index below a bound `n` is past, and indices rise strictly. -/
def memWfFrom : Nat → Memory → Bool
  | _, [] => true
  | n, (k, _) :: m => decide (n ≤ k) && memWfFrom (k + 1) m

/-- The memory is in canonical form. -/
def Memory.wf (m : Memory) : Bool := memWfFrom 0 m

/-! ## The addressed session -/

/-- The state with `y` in place of the addressed session instance; nothing else changes. -/
def putSession (s : State) (y : Session) : State := { s with sessions := s.sessions.set s.target y }

/-- Run an operation on the session instance the event is addressed to, and on no other (60_exceptions.md R228). -/
def onTarget (s : State) (f : Session → Host.Outcome Session Fault Refusal) : Host.Outcome State Fault Refusal :=
  match s.sessions[s.target]? with
  | none => .fault .noSuchSession
  | some x => andThen (f x) fun y => .next (putSession s y)

/-- Hand a call's value to its caller. -/
def giveRet (s : State) (r : Ret) : Host.Outcome State Fault Refusal := .next { s with ret := some r }

/-! ## Events and errors -/

/-- `emit E` (R12): append to the session's output trace. -/
def emit (e : OutEvent) (x : Session) : Session := { x with sink := x.sink ++ [e] }

/-- The errors a parser step can raise (60_exceptions.md R205). TerminatorMismatch is no entry of its own: raising it is
setting bit 1 of the REJECT that S.FTERM emits. -/
inductive ParserError where
  | magicMismatch (h : Header)
  | checksumMismatch (computed received : Byte)
  deriving DecidableEq, Repr

/-- The event that reports an error (R201, R202; reason bit 2 of 30_encoding.md R100). -/
def errorEvent : ParserError → OutEvent
  | .magicMismatch h => .reject 0b100 h.magic h.command h.direction h.payloadLength
  | .checksumMismatch computed received => .diagCk computed received

/-- The flag an error sets (R205): `fault` or `ck_bad`. -/
def errorFlag (e : ParserError) (r : Regs) : Regs :=
  match e with
  | .magicMismatch _ => { r with fault := true }
  | .checksumMismatch _ _ => { r with ckBad := true }

/-- `raise` (R205): the flag write and the report, and no transfer of control. -/
def raise (e : ParserError) (x : Session) : Session := emit (errorEvent e) { x with regs := errorFlag e x.regs }

/-- Every register at its reset value but `open`, which takes `o`; the session's trace begins anew
(42_stream_parser.md R151, R152; 70_reset_and_hazards.md R241, R242). The events already emitted stay (20_memory.md R68). -/
def resetSession (o : Bool) (x : Session) : Session :=
  { x with regs := { Regs.reset with isOpen := o }, sinkMark := x.sink.length }

end Sys2Proof.Machine
end

