-- ==== Sys2Proof/Machine/Flags.lean ====
section
/-! DEFINITION. What is computed from a session's flags and position: the state code (30_encoding.md R97), the dispatch
selector (R98), the reason bits (R100) and the lifecycle mode (60_exceptions.md R225). -/

namespace Sys2Proof.Machine

/-- The 2-bit code of `state` (R97). -/
def stateCode : PState → BitVec 2
  | .awaitingHeader => 0b00
  | .awaitingPayload => 0b01
  | .awaitingFooter => 0b10

/-- A Boolean as one bit. -/
def bit (b : Bool) : BitVec 1 := BitVec.ofBool b

/-- The bit `last` of the selector (R98). -/
def lastBit (r : Regs) : Bool :=
  match r.state with
  | .awaitingHeader => r.hdrCnt == 5
  | .awaitingPayload => false
  | .awaitingFooter => r.remFooter == 1

/-- `sel[4:0]` = (open, fault, state[1], state[0], last), `open` the most significant bit (R98). -/
def selector (r : Regs) : BitVec 5 := bit r.isOpen ++ bit r.fault ++ stateCode r.state ++ bit (lastBit r)

/-- The position is one the invariants exclude (93_implementation_defined.md U5): AwaitingPayload with nothing remaining, or
AwaitingFooter with no footer byte due. It matters only where a byte would be parsed. -/
def stuckPosition (r : Regs) : Bool :=
  r.isOpen && !r.fault &&
    match r.state with
    | .awaitingHeader => false
    | .awaitingPayload => r.remPayload == 0
    | .awaitingFooter => r.remFooter == 0

/-- The operation a byte selects (R98); none where the machine is stuck (U5, U9). -/
def selectOp (r : Regs) : Option SelOp := if stuckPosition r then none else decodeSel (selector r)

/-- A footer REJECT's reason (42_stream_parser.md R161): (0, term_bad, ck_bad) from bit 2 down. -/
def footerReason (termBad ckBad : Bool) : BitVec 3 := 0#1 ++ bit termBad ++ bit ckBad

/-- DEC.VERIFY's reason (41_codec.md R137): bit 0 the checksum, bit 1 the terminator. -/
def verifyReason (termBad ckBad : Bool) : BitVec 2 := bit termBad ++ bit ckBad

/-- The lifecycle modes (R225). -/
inductive Mode where
  | closed | opened | faulted
  deriving DecidableEq, Repr

/-- The mode of a session (R225); `open = 0` with `fault = 1` does not occur. -/
def mode (r : Regs) : Mode := if r.isOpen then (if r.fault then .faulted else .opened) else .closed

end Sys2Proof.Machine
end

