-- ==== Sys2Proof/Machine/Operands.lean ====
section
/-! DEFINITION. The operand forms: bytes of SRC by index or as a view (20_memory.md R61, R64), frame sizes
(41_codec.md R126, R136), and the numbers of DecodeError (30_encoding.md R101). -/

namespace Sys2Proof.Machine

/-- The bytes `bytes[off .. off + len)` of SRC. -/
def srcView (bytes : List Byte) (off len : Nat) : List Byte := (bytes.drop off).take len

/-- The payload a `Decoded` result views (41_codec.md R132). -/
def payloadView (bytes : List Byte) (d : Decoded) : List Byte := srcView bytes d.payloadOffset d.payloadLength

/-- `frame_len(L)` (R126), over unbounded naturals (R136). -/
def frameLen (payloadLength : Nat) : Nat := headerSize + payloadLength + footerSize

/-- The numbers of R101; 0 means success. -/
def decodeErrorCode : AtomicResult → Nat
  | .decoded _ => 0
  | .error .tooShort => 1
  | .error .badMagic => 2

end Sys2Proof.Machine
end

