-- ==== Sys2Proof/Machine/Catalog.lean ====
section
/-! DEFINITION. The command catalog (43_command_catalog.md): CAT.NAME, and its eight encoding rows of format CMD8 (R191, R192).
An entry's row means that its command byte is looked up: CAT.NAME of the entry's value is returned, and nothing else happens
(R194; log entry 19). -/

namespace Sys2Proof.Machine

/-- `CAT.NAME` (R191): pure and total. -/
def catNameOf (cat : Catalog) (c : Byte) : CatName :=
  match catEntryOf cat c with
  | some e => .known e
  | none => .unknown

/-- CAT.NAME of a byte, returned to the caller. -/
def lookUp (c : Byte) (s : State) : Host.Outcome State Fault Refusal := giveRet s (.name (catNameOf s.cfg.catalog c))

/-- CAT.NAME (R191). -/
def execCatName (c : Byte) (s : State) : Host.Outcome State Fault Refusal := lookUp c s

/-- PRINT_DATA (R192). -/
def execPrintData (s : State) : Host.Outcome State Fault Refusal := lookUp (catValue s.cfg.catalog .printData) s

/-- STATUS (R192). -/
def execStatus (s : State) : Host.Outcome State Fault Refusal := lookUp (catValue s.cfg.catalog .status) s

/-- SET_HEAT (R192). -/
def execSetHeat (s : State) : Host.Outcome State Fault Refusal := lookUp (catValue s.cfg.catalog .setHeat) s

/-- PRINT_CTRL (R192). -/
def execPrintCtrl (s : State) : Host.Outcome State Fault Refusal := lookUp (catValue s.cfg.catalog .printCtrl) s

/-- SET_ENERGY (R192). -/
def execSetEnergy (s : State) : Host.Outcome State Fault Refusal := lookUp (catValue s.cfg.catalog .setEnergy) s

/-- DRAFT_MODE (R192). -/
def execDraftMode (s : State) : Host.Outcome State Fault Refusal := lookUp (catValue s.cfg.catalog .draftMode) s

/-- FEED_SPEED (R192). -/
def execFeedSpeed (s : State) : Host.Outcome State Fault Refusal := lookUp (catValue s.cfg.catalog .feedSpeed) s

/-- PRINT_DATA_COMPRESSED (R192). -/
def execPrintDataCompressed (s : State) : Host.Outcome State Fault Refusal :=
  lookUp (catValue s.cfg.catalog .printDataCompressed) s

end Sys2Proof.Machine
end

