-- ==== Sys2Proof/Machine/Checksum.lean ====
section
/-! DEFINITION. The checksum accumulator (40_checksum.md): CK.STEP, CK.CALC, CK.CLR, and the parameter CK_STEP with its two
named candidates. -/

namespace Sys2Proof.Machine

/-- SUM8 (R116): addition modulo 256, no carry kept. -/
def sum8 (s b : Byte) : Byte := s + b

/-- One of the eight rounds of CRC8_07 (R117). -/
def crcRound (c : Byte) : Byte := if c.getLsbD 7 then (c <<< 1) ^^^ 0x07 else c <<< 1

/-- `n` rounds. -/
def crcRounds : Nat → Byte → Byte
  | 0, c => c
  | n + 1, c => crcRounds n (crcRound c)

/-- CRC8_07 (R117). PRESUMED: the spec itself marks it as general knowledge (G1); log entry 3. -/
def crc8 (s b : Byte) : Byte := crcRounds 8 (s ^^^ b)

/-- CK_STEP at the parameter's value (R111, R118). -/
def ckApply (k : CkStep) (s b : Byte) : Byte :=
  match k with
  | .sum8 => sum8 s b
  | .crc8_07 => crc8 s b
  | .table values => values[(s ++ b).toNat]

/-- The left fold of CK_STEP over a whole byte sequence (R112, R118). -/
def ckFold (k : CkStep) (bytes : List Byte) (seed : Byte) : Byte := bytes.foldl (ckApply k) seed

/-- CK.CALC (R112): the first `n` bytes, in index order. -/
def ckCalc (k : CkStep) (bytes : List Byte) (n : Nat) (seed : Byte) : Byte := ckFold k (bytes.take n) seed

/-- The write `cksum <- CK_SEED0` (R113), which S.HDREND makes when it accepts a header, and nothing else makes. -/
def ckClear (r : Regs) : Regs := { r with cksum := ckSeed0 }

/-- CK.STEP (R111). -/
def execCkStep (a b : Byte) (s : State) : Host.Outcome State Fault Refusal := giveRet s (.checksum (ckApply s.cfg.ckStep a b))

/-- CK.CALC (R112); a length beyond the bytes is outside the contract (R115, U1). -/
def execCkCalc (bytes : List Byte) (n : Nat) (seed : Byte) (s : State) : Host.Outcome State Fault Refusal :=
  if n ≤ bytes.length then giveRet s (.checksum (ckCalc s.cfg.ckStep bytes n seed)) else .refused .readsBeyondSource

/-- CK.CLR called from outside S.HDREND (R113; log entry 17): as every row of format CALL a pure function (30_encoding.md
R106), it returns the value S.HDREND writes. It writes no register, since only the input events do (10_state.md R35). -/
def execCkClr (s : State) : Host.Outcome State Fault Refusal := giveRet s (.checksum ckSeed0)

end Sys2Proof.Machine
end

