-- ==== Sys2Proof/Machine/Codec.lean ====
section
/-! DEFINITION. The packet codec (41_codec.md): ENC.BUILD, DEC.ATOMIC, DEC.VERIFY. They touch no session register and emit no
event (R141). -/

namespace Sys2Proof.Machine

/-- `FRAME(cmd, dir, payload, ck, term)` (30_encoding.md R102): a frame's bytes from five explicit fields, the length being
the number of payload bytes. -/
def frameBytes (cfg : Config) (command direction : Byte) (payload : List Byte) (ck term : Byte) : List Byte :=
  headerBytes
      { magic := cfg.magic, command := command, direction := direction, payloadLength := BitVec.ofNat 16 payload.length }
    ++ payload ++ [ck, term]

/-- `GOODD(cmd, dir, payload)` (R105): the well-formed frame with a chosen direction byte. -/
def goodFrame (cfg : Config) (command direction : Byte) (payload : List Byte) : List Byte :=
  frameBytes cfg command direction payload (ckCalc cfg.ckStep payload payload.length ckSeed0) terminator

/-- The frame ENC.BUILD writes to DST and returns (R127), its direction byte being ENC_DIRECTION (R128). -/
def encodedFrame (cfg : Config) (command : Byte) (payload : List Byte) : List Byte :=
  goodFrame cfg command cfg.encDirection payload

/-- ENC.BUILD (R127). Both preconditions are tested before the first write (R129), on exact sizes (R136). -/
def execEncBuild (command : Byte) (payload : List Byte) (cap : Nat) (s : State) : Host.Outcome State Fault Refusal :=
  if maxPayload < payload.length then .refused .encodeTooLong
  else if cap < frameLen payload.length then .refused .encodeCapacity
  else
    let frame := encodedFrame s.cfg command payload
    giveRet { s with dst := memWriteList s.dst 0 frame } (.frame frame)

/-- `decodePacket` (R132), the three checks in the order R133 gives; it reads no byte beyond the sequence (R140) and does not
look at the footer's values (R134). -/
def decodePacket (cfg : Config) (bytes : List Byte) : AtomicResult :=
  if h1 : bytes.length < 8 then .error .tooShort
  else
    let h := parseHeader bytes[0] bytes[1] bytes[2] bytes[3] bytes[4] bytes[5]
    if h.magic ≠ cfg.magic then .error .badMagic
    else if h3 : bytes.length < 6 + h.payloadLength.toNat + 2 then .error .tooShort
    else
      .decoded
        { header := h, command := h.command, payloadOffset := 6, payloadLength := h.payloadLength.toNat,
          footer := { checksum := bytes[6 + h.payloadLength.toNat], terminator := bytes[7 + h.payloadLength.toNat] } }

/-- DEC.ATOMIC (R132). -/
def execDecAtomic (bytes : List Byte) (s : State) : Host.Outcome State Fault Refusal :=
  giveRet s (.atomic (decodePacket s.cfg bytes))

/-- The footer check of R137. -/
def verifyFooter (cfg : Config) (bytes : List Byte) (d : Decoded) : BitVec 2 :=
  let len := d.header.payloadLength.toNat
  verifyReason (d.footer.terminator != terminator)
    (d.footer.checksum != ckCalc cfg.ckStep (srcView bytes 6 len) len ckSeed0)

/-- DEC.VERIFY (R137). A `d` whose payload reaches beyond the bytes is no result of DEC.ATOMIC on them, and CK.CALC would read
beyond SRC (40_checksum.md R115, U1; log entry 22). -/
def execDecVerify (bytes : List Byte) (d : Decoded) (s : State) : Host.Outcome State Fault Refusal :=
  if bytes.length < 6 + d.header.payloadLength.toNat then .refused .readsBeyondSource
  else giveRet s (.reason (verifyFooter s.cfg bytes d))

end Sys2Proof.Machine
end

