-- ==== Sys2Proof/Machine/Parser.lean ====
section
/-! DEFINITION. The streaming packet parser (42_stream_parser.md) and RST (70_reset_and_hazards.md R241). Each byte-step
operation is a function on one session; every read in it sees the registers from before the step (00_scope.md R12). -/

namespace Sys2Proof.Machine

/-! ## The seven byte-step operations -/

/-- S.DROP_CLOSED (R155): nothing is written and nothing emitted; the run is marked as outside the contract. -/
def dropClosed (x : Session) : Session := { x with outside := true }

/-- S.DROP_FAULT (R156): nothing is written and nothing emitted. -/
def dropFault (x : Session) : Session := x

/-- S.HDRBUF (R157). -/
def bufferHeaderByte (b : Byte) (x : Session) : Session :=
  { x with regs := { x.regs with hdrBuf := x.regs.hdrBuf.set x.regs.hdrCnt.val b, hdrCnt := x.regs.hdrCnt + 1 } }

/-- The header S.HDREND parses: the five bytes held and the byte that arrives (R158, R90). -/
def completedHeader (b : Byte) (r : Regs) : Header :=
  parseHeader r.hdrBuf[0] r.hdrBuf[1] r.hdrBuf[2] r.hdrBuf[3] r.hdrBuf[4] b

/-- The writes S.HDREND makes whether or not the magic matches (R158). -/
def storeHeader (b : Byte) (r : Regs) : Regs :=
  { r with hdrBuf := r.hdrBuf.set 5 b, hdrCnt := 0, hdr := completedHeader b r }

/-- The writes S.HDREND makes when it accepts header `h` (R158); an empty payload goes straight to the footer (R165). -/
def acceptHeader (h : Header) (r : Regs) : Regs :=
  ckClear
    { r with
      remPayload := h.payloadLength, remFooter := 2, ckBad := false,
      state := if h.payloadLength = 0 then .awaitingFooter else .awaitingPayload }

/-- S.HDREND (R158): the only place MagicMismatch is raised (60_exceptions.md R201). -/
def endHeader (cfg : Config) (b : Byte) (x : Session) : Session :=
  let h := completedHeader b x.regs
  let x' := { x with regs := storeHeader b x.regs }
  if h.magic = cfg.magic then { x' with regs := acceptHeader h x'.regs } else raise (.magicMismatch h) x'

/-- S.PAY (R159). -/
def payloadByte (cfg : Config) (b : Byte) (x : Session) : Session :=
  let r := x.regs
  emit (.pay (r.hdr.payloadLength - r.remPayload) b)
    { x with
      regs :=
        { r with
          cksum := ckApply cfg.ckStep r.cksum b, remPayload := r.remPayload - 1,
          state := if r.remPayload = 1 then .awaitingFooter else r.state } }

/-- S.FCK (R160). -/
def footerChecksum (b : Byte) (x : Session) : Session :=
  let x' := { x with regs := { x.regs with ckBad := false, remFooter := 1 } }
  if b = x.regs.cksum then x' else raise (.checksumMismatch x.regs.cksum b) x'

/-- The one event S.FTERM emits (R161, R169). -/
def footerEvent (b : Byte) (r : Regs) : OutEvent :=
  if r.ckBad = false ∧ b = terminator then .accept r.hdr.command r.hdr.direction r.hdr.payloadLength
  else .reject (footerReason (b != terminator) r.ckBad) r.hdr.magic r.hdr.command r.hdr.direction r.hdr.payloadLength

/-- S.FTERM (R161). -/
def footerTerminator (b : Byte) (x : Session) : Session :=
  emit (footerEvent b x.regs) { x with regs := { x.regs with remFooter := 0, ckBad := false, state := .awaitingHeader } }

/-- The operation a selector row names, on byte `b`. -/
def runOp (cfg : Config) (op : SelOp) (b : Byte) (x : Session) : Session :=
  match op with
  | .dropClosed => dropClosed x
  | .dropFault => dropFault x
  | .hdrBuf => bufferHeaderByte b x
  | .hdrEnd => endHeader cfg b x
  | .pay => payloadByte cfg b x
  | .fck => footerChecksum b x
  | .fterm => footerTerminator b x

/-! ## One byte, many bytes -/

/-- S.BYTE on one session (R154): exactly one of the seven operations runs. -/
def byteStep (cfg : Config) (b : Byte) (x : Session) : Host.Outcome Session Fault Refusal :=
  match selectOp x.regs with
  | some op => .next (runOp cfg op b x)
  | none => .fault .stuck

/-- S.DELIVER on one session (R153, R163): the byte steps of the chunk in order. -/
def deliver (cfg : Config) : List Byte → Session → Host.Outcome Session Fault Refusal
  | [], x => .next x
  | b :: bs, x => andThen (byteStep cfg b x) (deliver cfg bs)

/-- A SEL5 operation presented by itself: it runs where the session's selector picks its row, and nowhere else (R98; log
entry 16). -/
def runSelected (op : SelOp) (b : Byte) (s : State) : Host.Outcome State Fault Refusal :=
  onTarget s fun x =>
    match selectOp x.regs with
    | none => .fault .stuck
    | some op' => if op' = op then .next (runOp s.cfg op b x) else .refused (.notSelected op)

/-! ## The meanings -/

/-- S.DROP_CLOSED (R155). -/
def execSDropClosed (b : Byte) (s : State) : Host.Outcome State Fault Refusal := runSelected .dropClosed b s

/-- S.DROP_FAULT (R156). -/
def execSDropFault (b : Byte) (s : State) : Host.Outcome State Fault Refusal := runSelected .dropFault b s

/-- S.HDRBUF (R157). -/
def execSHdrbuf (b : Byte) (s : State) : Host.Outcome State Fault Refusal := runSelected .hdrBuf b s

/-- S.HDREND (R158). -/
def execSHdrend (b : Byte) (s : State) : Host.Outcome State Fault Refusal := runSelected .hdrEnd b s

/-- S.PAY (R159). -/
def execSPay (b : Byte) (s : State) : Host.Outcome State Fault Refusal := runSelected .pay b s

/-- S.FCK (R160). -/
def execSFck (b : Byte) (s : State) : Host.Outcome State Fault Refusal := runSelected .fck b s

/-- S.FTERM (R161). -/
def execSFterm (b : Byte) (s : State) : Host.Outcome State Fault Refusal := runSelected .fterm b s

/-- RST (70_reset_and_hazards.md R241): one instance; the configuration constants are not registers (R242). -/
def execRst (s : State) : Host.Outcome State Fault Refusal := onTarget s fun x => .next (resetSession false x)

/-- S.OPEN (R151). -/
def execSOpen (s : State) : Host.Outcome State Fault Refusal := onTarget s fun x => .next (resetSession true x)

/-- S.CLOSE (R152). -/
def execSClose (s : State) : Host.Outcome State Fault Refusal := onTarget s fun x => .next (resetSession false x)

/-- S.DELIVER (R153). -/
def execSDeliver (chunk : List Byte) (s : State) : Host.Outcome State Fault Refusal := onTarget s (deliver s.cfg chunk)

/-- S.BYTE (R154). -/
def execSByte (b : Byte) (s : State) : Host.Outcome State Fault Refusal := onTarget s (byteStep s.cfg b)

end Sys2Proof.Machine
end

