-- ==== Sys2Proof/Machine/Wire.lean ====
section
/-! DEFINITION. The WIRE rows (30_encoding.md R80, R81, R87): the arrival of a header's or a footer's bytes on STREAM at the
addressed session, which takes them as it takes any delivered bytes (log entry 18). -/

namespace Sys2Proof.Machine

/-- The bytes of the FRAME.HEADER pattern at the parameter MAGIC (R81, R89). -/
def wireHeader (cfg : Config) (command direction : Byte) (length : Half) : List Byte :=
  headerBytes { magic := cfg.magic, command := command, direction := direction, payloadLength := length }

/-- The bytes of the FRAME.FOOTER pattern (R87, R89). -/
def wireFooter (checksum : Byte) : List Byte := [checksum, terminator]

/-- FRAME.HEADER (R81). -/
def execFrameHeader (command direction : Byte) (length : Half) (s : State) : Host.Outcome State Fault Refusal :=
  onTarget s (deliver s.cfg (wireHeader s.cfg command direction length))

/-- FRAME.FOOTER (R87). -/
def execFrameFooter (checksum : Byte) (s : State) : Host.Outcome State Fault Refusal :=
  onTarget s (deliver s.cfg (wireFooter checksum))

end Sys2Proof.Machine
end

