-- ==== Sys2Proof/Machine/Dispatch.lean ====
section
/-! DEFINITION. One arm per instruction: the mnemonics of the operation table, each with its own meaning. -/

namespace Sys2Proof.Machine

def exec (i : Instr) (s : State) : Host.Outcome State Fault Refusal :=
  match i with
  | .frameHeader c d l => Sys2Proof.Machine.execFrameHeader c d l s
  | .frameFooter k => Sys2Proof.Machine.execFrameFooter k s
  | .printData => Sys2Proof.Machine.execPrintData s
  | .status => Sys2Proof.Machine.execStatus s
  | .setHeat => Sys2Proof.Machine.execSetHeat s
  | .printCtrl => Sys2Proof.Machine.execPrintCtrl s
  | .setEnergy => Sys2Proof.Machine.execSetEnergy s
  | .draftMode => Sys2Proof.Machine.execDraftMode s
  | .feedSpeed => Sys2Proof.Machine.execFeedSpeed s
  | .printDataCompressed => Sys2Proof.Machine.execPrintDataCompressed s
  | .sDropClosed b => Sys2Proof.Machine.execSDropClosed b s
  | .sDropFault b => Sys2Proof.Machine.execSDropFault b s
  | .sHdrbuf b => Sys2Proof.Machine.execSHdrbuf b s
  | .sHdrend b => Sys2Proof.Machine.execSHdrend b s
  | .sPay b => Sys2Proof.Machine.execSPay b s
  | .sFck b => Sys2Proof.Machine.execSFck b s
  | .sFterm b => Sys2Proof.Machine.execSFterm b s
  | .rst => Sys2Proof.Machine.execRst s
  | .sOpen => Sys2Proof.Machine.execSOpen s
  | .sClose => Sys2Proof.Machine.execSClose s
  | .sDeliver chunk => Sys2Proof.Machine.execSDeliver chunk s
  | .sByte b => Sys2Proof.Machine.execSByte b s
  | .ckStep a b => Sys2Proof.Machine.execCkStep a b s
  | .ckCalc bytes n seed => Sys2Proof.Machine.execCkCalc bytes n seed s
  | .ckClr => Sys2Proof.Machine.execCkClr s
  | .encBuild command payload cap => Sys2Proof.Machine.execEncBuild command payload cap s
  | .decAtomic bytes => Sys2Proof.Machine.execDecAtomic bytes s
  | .decVerify bytes d => Sys2Proof.Machine.execDecVerify bytes d s
  | .catName c => Sys2Proof.Machine.execCatName c s

end Sys2Proof.Machine
end

