-- ==== Sys2Proof/Machine/Fetch.lean ====
section
/-! DEFINITION. How the next request reaches the machine, and how a table word is placed so that it is the next one. -/

namespace Sys2Proof.Machine

/-- What fetching answers. -/
inductive Fetched where
  /-- Nothing to do: no request, or a port cycle with no input at 1 (10_state.md R47). -/
  | idle (s : State)
  /-- An instruction, and the state to run it in: its request taken off, the addressed session set. -/
  | run (i : Instr) (s : State)
  /-- A selector that matches no row (30_encoding.md R99). -/
  | noSelectorRow
  deriving DecidableEq, Repr

/-- Take the oldest pending request and decode it. Without one no step of the block happens (42_stream_parser.md R174), and a
port cycle without an event is no step (10_state.md R47; log entry 6). -/
def fetch (s : State) : Fetched :=
  match s.pending with
  | [] => .idle s
  | r :: rest =>
    match decode s.cfg r.word with
    | .instr i => .run i { s with pending := rest, target := r.session }
    | .reject .noEvent => .idle { s with pending := rest }
    | .reject .noSelectorRow => .noSelectorRow

/-- The state a 2-bit code names (30_encoding.md R97); code 11 names none and leaves the state as it is. -/
def stateOfCode (code : BitVec 2) (old : PState) : PState :=
  if code = 0b00 then .awaitingHeader else if code = 0b01 then .awaitingPayload else if code = 0b10 then .awaitingFooter else old

/-- The registers with the least change of position that makes the selector match `sel` (R98). -/
def selectRegs (sel : BitVec 5) (r : Regs) : Regs :=
  let last := sel.getLsbD 0
  let r := { r with isOpen := sel.getLsbD 4, fault := sel.getLsbD 3, state := stateOfCode (sel.extractLsb' 1 2) r.state }
  match r.state with
  | .awaitingHeader => { r with hdrCnt := if last then 5 else if r.hdrCnt = 5 then 0 else r.hdrCnt }
  | .awaitingPayload => { r with remPayload := if r.remPayload = 0 then 1 else r.remPayload }
  | .awaitingFooter => { r with remFooter := if last then 1 else 2 }

/-- The session that a request of format SEL5 runs on, with the selection its row needs (log entry 21). -/
def selectSession (w : Word) (x : Session) : Session :=
  match w with
  | .sel5 sel _ => { x with regs := selectRegs sel x.regs }
  | _ => x

/-- The first session changed by `f`; there may be none. -/
def changeFirst (f : Session → Session) : List Session → List Session
  | [] => []
  | x :: xs => f x :: xs

/-- The table word's request as the oldest pending one, addressed to session 0, which is given the selection a SEL5 row needs. -/
def placeWord (s : State) (nbits w : Nat) : State :=
  match tableWord nbits w with
  | none => s
  | some word =>
    { s with sessions := changeFirst (selectSession word) s.sessions, pending := { session := 0, word := word } :: s.pending }

end Sys2Proof.Machine
end

