-- ==== Sys2Proof/Machine/Step.lean ====
section
/-! DEFINITION. One step: the oldest pending request is taken, decoded and executed (00_scope.md R7: one input event is one
step). -/

namespace Sys2Proof.Machine

/-- One step of the machine. -/
def step (s : State) : Host.Outcome State Fault Refusal :=
  match fetch s with
  | .idle s' => .next s'
  | .run i s' => exec i s'
  | .noSelectorRow => .fault .noSelectorRow

/-- `s` with the instruction of a table word as the next to be fetched (log entries 20 and 21). -/
def State.withFetchWord (s : State) (nbits w : Nat) : State := placeWord s nbits w

end Sys2Proof.Machine
end

