-- ==== Sys2Proof/Machine/Sink.lean ====
section
/-! DEFINITION. What a sink reads from a session's output trace: the payload of a packet (10_state.md R44), the single-valued
validity (60_exceptions.md R214), and the observation of a run (00_scope.md R8). The block does nothing with any of it. -/

namespace Sys2Proof.Machine

/-- The payload bytes held by a sink after one more event: ACCEPT and REJECT end a packet, DIAG_CK does not (R43, R44). -/
def collectPayload (held : List Byte) : OutEvent → List Byte
  | .pay _ b => held ++ [b]
  | .diagCk _ _ => held
  | .accept _ _ _ => []
  | .reject _ _ _ _ _ => []

/-- The bytes of the PAY events since the last ACCEPT or REJECT of a trace, or since its start. -/
def payloadSince (t : List OutEvent) : List Byte := t.foldl collectPayload []

/-- `payload_of(t, e)` (R44), `e` being the event at index `n` of the trace. -/
def payloadOf (t : List OutEvent) (n : Nat) : List Byte := payloadSince (t.take n)

/-- The trace of the present session of an instance: the events since the last OPEN, CLOSE or RST. -/
def sessionTrace (x : Session) : List OutEvent := x.sink.drop x.sinkMark

/-- The payload bytes emitted for the packet in flight. -/
def heldPayload (x : Session) : List Byte := payloadSince (sessionTrace x)

/-- The source's single-valued validity (R214). -/
inductive Validity where
  | wellFormed | checksumMismatch | terminatorMismatch | magicMismatch
  deriving DecidableEq, Repr

/-- The validity an event reports (R214): magic first, then checksum, then terminator. PAY and DIAG_CK report none. -/
def validityOf : OutEvent → Option Validity
  | .accept _ _ _ => some .wellFormed
  | .reject reason _ _ _ _ =>
    some (if reason.getLsbD 2 then .magicMismatch else if reason.getLsbD 0 then .checksumMismatch else .terminatorMismatch)
  | .pay _ _ => none
  | .diagCk _ _ => none

/-- The observation of a run (R8): the output event trace and the final session state. -/
def observation (x : Session) : List OutEvent × Regs := (x.sink, x.regs)

end Sys2Proof.Machine
end

