-- ==== Sys2Proof/Machine/Ports.lean ====
section
/-! DEFINITION. The port-level reading of one session instance (10_state.md R45 to R48): the input ports, the output strobes
with their field buses, the status levels, and one clock cycle. -/

namespace Sys2Proof.Machine

/-- The input ports (R45). -/
structure InPorts where
  rst : Bool
  sessionClose : Bool
  sessionOpen : Bool
  inValid : Bool
  inData : Byte
  deriving DecidableEq, Repr

/-- The port vector in4 = (rst, session_close, session_open, in_valid) (30_encoding.md R106). -/
def in4 (p : InPorts) : BitVec 4 := bit p.rst ++ bit p.sessionClose ++ bit p.sessionOpen ++ bit p.inValid

/-- The request a cycle with these ports is. -/
def portsWord (p : InPorts) : Word := .ports (in4 p) p.inData

/-- The field buses that `ev_valid` makes valid (R46). -/
structure EvPorts where
  evAccept : Bool
  evReason : BitVec 3
  evMagic : Half
  evCommand : Byte
  evDirection : Byte
  evLength : Half
  deriving DecidableEq, Repr

/-- The status levels (R46, R48): registers as they stand between steps. -/
structure Status where
  stOpen : Bool
  stFault : Bool
  stState : BitVec 2
  stHdrCnt : BitVec 3
  stCommand : Byte
  stDirection : Byte
  stLength : Half
  stRemPayload : Half
  stRemFooter : BitVec 2
  stCksum : Byte
  deriving DecidableEq, Repr

/-- The output ports in one cycle (R46). A strobe is 1 exactly where its bus is present: a bus has a meaning in no other
cycle. -/
structure OutPorts where
  /-- `in_ready`, constant 1. -/
  inReady : Bool
  /-- `pay_valid`: `pay_index` and `pay_data`. -/
  pay : Option (Half × Byte)
  /-- `diag_ck`: `diag_ck_computed` and `diag_ck_received`. -/
  diag : Option (Byte × Byte)
  /-- `ev_valid` and its buses. -/
  ev : Option EvPorts
  status : Status
  deriving DecidableEq, Repr

/-- The status read (R48): it has no side effect. -/
def statusOf (r : Regs) : Status :=
  { stOpen := r.isOpen, stFault := r.fault, stState := stateCode r.state, stHdrCnt := BitVec.ofNat 3 r.hdrCnt.val,
    stCommand := r.hdr.command, stDirection := r.hdr.direction, stLength := r.hdr.payloadLength,
    stRemPayload := r.remPayload, stRemFooter := BitVec.ofNat 2 r.remFooter.val, stCksum := r.cksum }

/-- The output ports of a cycle that emits at most the event `e`, the registers before it being `r` (R46, R47). In an ACCEPT's
cycle `ev_magic` is `hdr.magic`: ACCEPT's header fields are those of `hdr` (R43; log entry 24). -/
def outPortsOf (r : Regs) (e : Option OutEvent) : OutPorts :=
  { inReady := true
    pay := match e with
      | some (.pay i b) => some (i, b)
      | _ => none
    diag := match e with
      | some (.diagCk c v) => some (c, v)
      | _ => none
    ev := match e with
      | some (.accept c d l) =>
        some { evAccept := true, evReason := 0, evMagic := r.hdr.magic, evCommand := c, evDirection := d, evLength := l }
      | some (.reject q m c d l) =>
        some { evAccept := false, evReason := q, evMagic := m, evCommand := c, evDirection := d, evLength := l }
      | _ => none
    status := statusOf r }

/-- What one cycle does to the session: at most one input event, by the priority of R47. -/
def cycleSession (cfg : Config) (p : InPorts) (x : Session) : Host.Outcome Session Fault Refusal :=
  match decodePorts (in4 p) with
  | some .rst => .next (resetSession false x)
  | some .close => .next (resetSession false x)
  | some .opened => .next (resetSession true x)
  | some .byte => byteStep cfg p.inData x
  | none => .next x

/-- One clock cycle (R47): the session after it, and the outputs in it, which answer the inputs of the same cycle. -/
def cycle (cfg : Config) (p : InPorts) (x : Session) : Host.Outcome (Session × OutPorts) Fault Refusal :=
  andThen (cycleSession cfg p x) fun y => .next (y, outPortsOf x.regs (y.sink.drop x.sink.length).head?)

end Sys2Proof.Machine
end

