-- ==== Sys2Proof/Safety.lean ====
section
/-! DEFINITION. The invariants of 10_state.md R32 in the terms claims use, and the runs within the contract (R41). -/

namespace Sys2Proof.Machine

/-- `x` is the session instance the event in service is addressed to (R39). -/
def Addressed (s : State) (x : Session) : Prop := s.sessions[s.target]? = some x

/-- Lifecycle mode OPEN: bytes are parsed (60_exceptions.md R225). -/
def Parsing (r : Regs) : Prop := r.isOpen = true ∧ r.fault = false

/-- A header is due at its first byte. -/
def AtFrameStart (r : Regs) : Prop := Parsing r ∧ r.state = .awaitingHeader ∧ r.hdrCnt = 0

/-- A byte parsed at this position would meet a register value the invariants exclude (93_implementation_defined.md U5). -/
def ExcludedPosition (r : Regs) : Prop :=
  (r.state = .awaitingPayload ∧ r.remPayload = 0) ∨ (r.state = .awaitingFooter ∧ r.remFooter = 0)

/-- The PAY events of a whole payload, in order (10_state.md R43). -/
def payEvents (payload : List Byte) : List OutEvent := payload.mapIdx fun i b => .pay (BitVec.ofNat 16 i) b

/-- The events of a well-formed packet (R43, 42_stream_parser.md R170). -/
def packetEvents (command direction : Byte) (payload : List Byte) : List OutEvent :=
  payEvents payload ++ [.accept command direction (BitVec.ofNat 16 payload.length)]

/-- The rows that read the catalog: CAT.NAME and its encoding rows (43_command_catalog.md R194). -/
def readsCatalog : Instr → Bool
  | .printData | .status | .setHeat | .printCtrl | .setEnergy | .draftMode | .feedSpeed | .printDataCompressed => true
  | .catName _ => true
  | .frameHeader _ _ _ | .frameFooter _ => false
  | .sDropClosed _ | .sDropFault _ | .sHdrbuf _ | .sHdrend _ | .sPay _ | .sFck _ | .sFterm _ => false
  | .rst | .sOpen | .sClose | .sDeliver _ | .sByte _ => false
  | .ckStep _ _ | .ckCalc _ _ _ | .ckClr | .encBuild _ _ _ | .decAtomic _ | .decVerify _ _ => false

/-- The codec's operations (41_codec.md R141). -/
def isCodec : Instr → Bool
  | .encBuild _ _ _ | .decAtomic _ | .decVerify _ _ => true
  | .frameHeader _ _ _ | .frameFooter _ => false
  | .printData | .status | .setHeat | .printCtrl | .setEnergy | .draftMode | .feedSpeed | .printDataCompressed => false
  | .sDropClosed _ | .sDropFault _ | .sHdrbuf _ | .sHdrend _ | .sPay _ | .sFck _ | .sFterm _ => false
  | .rst | .sOpen | .sClose | .sDeliver _ | .sByte _ => false
  | .ckStep _ _ | .ckCalc _ _ _ | .ckClr | .catName _ => false

/-- The rows of format CALL, and the catalog's rows, which encode CAT.NAME: no input event is among them, so none of them may
write a session register (10_state.md R35). -/
def isCall : Instr → Bool
  | .ckStep _ _ | .ckCalc _ _ _ | .ckClr | .encBuild _ _ _ | .decAtomic _ | .decVerify _ _ | .catName _ => true
  | .printData | .status | .setHeat | .printCtrl | .setEnergy | .draftMode | .feedSpeed | .printDataCompressed => true
  | .frameHeader _ _ _ | .frameFooter _ => false
  | .sDropClosed _ | .sDropFault _ | .sHdrbuf _ | .sHdrend _ | .sPay _ | .sFck _ | .sFterm _ => false
  | .rst | .sOpen | .sClose | .sDeliver _ | .sByte _ => false

/-- The rows that are several byte steps and not one (42_stream_parser.md R153). -/
def isManyBytes : Instr → Bool
  | .sDeliver _ | .frameHeader _ _ _ | .frameFooter _ => true
  | .printData | .status | .setHeat | .printCtrl | .setEnergy | .draftMode | .feedSpeed | .printDataCompressed => false
  | .sDropClosed _ | .sDropFault _ | .sHdrbuf _ | .sHdrend _ | .sPay _ | .sFck _ | .sFterm _ => false
  | .rst | .sOpen | .sClose | .sByte _ => false
  | .ckStep _ _ | .ckCalc _ _ _ | .ckClr | .encBuild _ _ _ | .decAtomic _ | .decVerify _ _ | .catName _ => false

/-- Chunks delivered one after the other (42_stream_parser.md R164). -/
def deliverAll (s : State) (chunks : List (List Byte)) : Host.Outcome State Fault Refusal :=
  chunks.foldl (fun o c => andThen o (exec (.sDeliver c))) (.next s)

/-- R32 items 1 to 5, on one session's registers. -/
structure Regs.Inv (cfg : Config) (r : Regs) : Prop where
  /-- Item 1. -/
  closed : r.isOpen = false → r = Regs.reset
  /-- Item 2; the range of `hdr_cnt` is its type's. -/
  header : r.state = .awaitingHeader → r.remPayload = 0 ∧ r.remFooter = 0 ∧ r.ckBad = false
  /-- Item 3. -/
  payload : r.state = .awaitingPayload →
    r.hdrCnt = 0 ∧ 1 ≤ r.remPayload.toNat ∧ r.remPayload.toNat ≤ r.hdr.payloadLength.toNat ∧ r.remFooter = 2 ∧
      r.ckBad = false ∧ r.hdr.magic = cfg.magic ∧ r.fault = false
  /-- Item 4. -/
  footer : r.state = .awaitingFooter →
    r.hdrCnt = 0 ∧ r.remPayload = 0 ∧ (r.remFooter = 1 ∨ r.remFooter = 2) ∧ r.hdr.magic = cfg.magic ∧ r.fault = false ∧
      (r.ckBad = true → r.remFooter = 1)
  /-- Item 5. -/
  faulted : r.fault = true →
    r.isOpen = true ∧ r.state = .awaitingHeader ∧ r.hdrCnt = 0 ∧ r.hdr.magic ≠ cfg.magic

/-- R32 on one session instance. Item 6 speaks of the payload bytes consumed so far; they are the PAY events of the packet in
flight (10_state.md R44), which the trace holds. -/
structure Session.Inv (cfg : Config) (x : Session) : Prop where
  regs : Regs.Inv cfg x.regs
  /-- The present session's trace lies within the trace. -/
  mark : x.sinkMark ≤ x.sink.length
  /-- Between packets no payload byte is pending. -/
  between : x.regs.state = .awaitingHeader → heldPayload x = []
  /-- Item 6: how many payload bytes have been consumed. -/
  consumed : x.regs.state ≠ .awaitingHeader →
    (heldPayload x).length = x.regs.hdr.payloadLength.toNat - x.regs.remPayload.toNat
  /-- Item 6: what `cksum` is. -/
  checksum : x.regs.state ≠ .awaitingHeader → x.regs.cksum = ckFold cfg.ckStep (heldPayload x) ckSeed0

/-- The machine's invariant: a configuration the spec allows, every session within R32, DST in canonical form. -/
structure State.Inv (s : State) : Prop where
  config : s.cfg.wf = true
  sessions : ∀ x ∈ s.sessions, Session.Inv s.cfg x
  dst : Memory.wf s.dst = true

/-- No session of the run has been handed a byte while CLOSED (10_state.md R41, 93_implementation_defined.md U3). -/
def State.WithinContract (s : State) : Prop := ∀ x ∈ s.sessions, x.outside = false

end Sys2Proof.Machine
end

