-- ==== Sys2Proof/Certificates/Slice0/Obligations.lean ====
section
/-! DEFINITION. The statements for the provers. A result statement gives the WHOLE next state, so it says what an operation
leaves unchanged as well: `putSession s y` is `s` with `y` as the addressed session and nothing else changed, and
`{ x with … }` is the session with nothing but the named fields changed. -/

open Sys2Proof Sys2Proof.Machine

/-! ## Encoding -/

/-- Decoding an encoded instruction gives it back, whatever the parameters. Derived: the requests are the model's form of
R106's five formats (log entry 5); the bits of the patterned rows are the spec's. -/
def Obligations.DecodeOfEncodeIsTheInstruction : Prop :=
  ∀ cfg : Config, cfg.wf = true → ∀ i : Instr, decode cfg (encode cfg i) = .instr i

/-- Words written from the spec's rows: header and footer patterns of R89, the STATUS byte of R192, two selectors of R98, a
port vector of R47 with `rst` winning over `in_valid`, and a selector and a port vector that are no row. That the requests
have this form, and the deliveries, the calls and the named rejects among them, is the model's (log entry 5); so is that WIRE
bytes of no pattern are delivered (log entry 18) and that a command byte without an entry is CAT.NAME's operand (log entry
19). The words use the default parameters (log entry 2). -/
def Obligations.TableWordsDecodeToTheirRows : Prop :=
  decode Config.default (.wire [0x51, 0x78, 0x10, 0x00, 0x05, 0x00]) = .instr (.frameHeader 0x10 0x00 5) ∧
  decode Config.default (.wire [0x0F, 0xFF]) = .instr (.frameFooter 0x0F) ∧
  decode Config.default (.cmd8 0xA3) = .instr .status ∧
  decode Config.default (.sel5 0b10011 0x01) = .instr (.sPay 0x01) ∧
  decode Config.default (.sel5 0b10101 0xFF) = .instr (.sFterm 0xFF) ∧
  decode Config.default (.ports 0b1001 0x33) = .instr .rst ∧
  decode Config.default (.deliver [0x51, 0x78]) = .instr (.sDeliver [0x51, 0x78]) ∧
  decode Config.default (.call (.ckCalc [0x01] 1 none)) = .instr (.ckCalc [0x01] 1 0x00) ∧
  decode Config.default (.sel5 0b10110 0x01) = .reject .noSelectorRow ∧
  decode Config.default (.ports 0b0000 0x33) = .reject .noEvent ∧
  decode Config.default (.wire [0x78, 0x51, 0xA3, 0x00, 0x00, 0x00]) =
    .instr (.sDeliver [0x78, 0x51, 0xA3, 0x00, 0x00, 0x00]) ∧
  decode Config.default (.wire [0x0F, 0x00]) = .instr (.sDeliver [0x0F, 0x00]) ∧
  decode Config.default (.cmd8 0xA5) = .instr (.catName 0xA5)

/-- `parse_header` and `header_bytes` are inverse to each other, and the two 16-bit fields are assembled low byte first (the
spec marks R90 as derived from R81, R82 and R83). -/
def Obligations.HeaderParsingIsInverseToHeaderBytes : Prop :=
  (∀ b0 b1 b2 b3 b4 b5 : Byte,
    (parseHeader b0 b1 b2 b3 b4 b5).magic.toNat = b0.toNat + 256 * b1.toNat ∧
    (parseHeader b0 b1 b2 b3 b4 b5).payloadLength.toNat = b4.toNat + 256 * b5.toNat ∧
    headerBytes (parseHeader b0 b1 b2 b3 b4 b5) = [b0, b1, b2, b3, b4, b5]) ∧
  (∀ h : Header, ∃ b0 b1 b2 b3 b4 b5, headerBytes h = [b0, b1, b2, b3, b4, b5] ∧ parseHeader b0 b1 b2 b3 b4 b5 = h)

/-! ## The step -/

/-- A request that decodes is executed: the step takes it off the pending input, addresses its session, and is `exec` there; a
selector that matches no row is stuck (U9). The pending list is the model's (log entry 4), and so are the requests' form (log
entry 5) and the write of `target` (log entry 7). -/
def Obligations.StepRunsTheDecodedInstruction : Prop :=
  ∀ (s : State) (r : Request) (rest : List Request), s.pending = r :: rest →
    (∀ i, decode s.cfg r.word = .instr i → step s = exec i { s with pending := rest, target := r.session }) ∧
    (decode s.cfg r.word = .reject .noSelectorRow → step s = .fault .noSelectorRow)

/-- Without an input event nothing happens: no pending request leaves the whole state as it is, and a port cycle with no input
at 1 is only consumed (log entry 6). -/
def Obligations.NoInputEventNoStep : Prop :=
  (∀ s : State, s.pending = [] → step s = .next s) ∧
  (∀ (s : State) (k : Nat) (b : Byte) (rest : List Request), s.pending = ⟨k, .ports 0 b⟩ :: rest →
    step s = .next { s with pending := rest })

/-- An event addressed to a session instance that does not exist faults (the model's choice, log entry 8). -/
def Obligations.MissingSessionFaults : Prop :=
  ∀ (s : State) (b : Byte) (chunk : List Byte), s.sessions[s.target]? = none →
    exec .rst s = .fault .noSuchSession ∧ exec .sOpen s = .fault .noSuchSession ∧ exec .sClose s = .fault .noSuchSession ∧
    exec (.sByte b) s = .fault .noSuchSession ∧ exec (.sDeliver chunk) s = .fault .noSuchSession

/-! ## Reset and session control -/

/-- RST: every register of the instance takes its value from R240; no event; `sinkMark` is the model's own (log entry 12). -/
def Obligations.RstGivesEveryRegisterItsResetValue : Prop :=
  ∀ (s : State) (x : Session), Addressed s x →
    exec .rst s = .next (putSession s
      { x with
        regs :=
          { isOpen := false, fault := false, state := .awaitingHeader, hdrBuf := #v[0, 0, 0, 0, 0, 0], hdrCnt := 0,
            hdr := { magic := 0, command := 0, direction := 0, payloadLength := 0 }, remPayload := 0, remFooter := 0,
            cksum := 0, ckBad := false },
        sinkMark := x.sink.length })

/-- S.OPEN in every lifecycle mode. `sinkMark` is the model's own (log entry 12): no register and no event. -/
def Obligations.OpenStartsAFreshSession : Prop :=
  ∀ (s : State) (x : Session), Addressed s x →
    exec .sOpen s = .next (putSession s
      { x with
        regs :=
          { isOpen := true, fault := false, state := .awaitingHeader, hdrBuf := #v[0, 0, 0, 0, 0, 0], hdrCnt := 0,
            hdr := { magic := 0, command := 0, direction := 0, payloadLength := 0 }, remPayload := 0, remFooter := 0,
            cksum := 0, ckBad := false },
        sinkMark := x.sink.length })

/-- S.CLOSE in every lifecycle mode. `sinkMark` is the model's own (log entry 12): no register and no event. -/
def Obligations.CloseClearsTheSession : Prop :=
  ∀ (s : State) (x : Session), Addressed s x →
    exec .sClose s = .next (putSession s
      { x with
        regs :=
          { isOpen := false, fault := false, state := .awaitingHeader, hdrBuf := #v[0, 0, 0, 0, 0, 0], hdrCnt := 0,
            hdr := { magic := 0, command := 0, direction := 0, payloadLength := 0 }, remPayload := 0, remFooter := 0,
            cksum := 0, ckBad := false },
        sinkMark := x.sink.length })

/-! ## The byte steps -/

/-- S.BYTE: exactly one of the seven operations runs, chosen as R154 writes it, and the byte step completes; at the positions
U5 excludes see `ExcludedPositionIsStuck`. -/
def Obligations.ByteRunsTheSelectedOperation : Prop :=
  ∀ (s : State) (x : Session) (b : Byte), Addressed s x → ¬ (Parsing x.regs ∧ ExcludedPosition x.regs) →
    exec (.sByte b) s =
      exec
        (if x.regs.isOpen = false then .sDropClosed b
         else if x.regs.fault = true then .sDropFault b
         else match x.regs.state with
          | .awaitingHeader => if x.regs.hdrCnt.val < 5 then .sHdrbuf b else .sHdrend b
          | .awaitingPayload => .sPay b
          | .awaitingFooter => if x.regs.remFooter = 2 then .sFck b else .sFterm b) s ∧
    ∃ y, exec (.sByte b) s = .next (putSession s y)

/-- S.DROP_CLOSED: no register is written and no event emitted; the run is marked as outside the contract (log entry 13: a
claim about a run within the contract never reaches this step). -/
def Obligations.ClosedSessionDropsTheByte : Prop :=
  ∀ (s : State) (x : Session) (b : Byte), Addressed s x → x.regs.isOpen = false →
    exec (.sDropClosed b) s = .next (putSession s { x with outside := true })

/-- S.DROP_FAULT: the byte is discarded, and so is every byte of every later delivery; no operation but OPEN, CLOSE and RST
changes a faulted session. -/
def Obligations.FaultedSessionDropsEveryByte : Prop :=
  ∀ (s : State) (x : Session), Addressed s x → x.regs.isOpen = true → x.regs.fault = true →
    (∀ b, exec (.sDropFault b) s = .next s) ∧ (∀ chunk, exec (.sDeliver chunk) s = .next s) ∧
    ∀ (i : Instr) (t : State), i ≠ .sOpen → i ≠ .sClose → i ≠ .rst → exec i s = .next t → Addressed t x

/-- S.HDRBUF: the byte is stored at `hdr_cnt`, which goes up by one; the magic is not looked at. `n` is the new `hdr_cnt`, so
the hypothesis on it is `hdr_cnt < 5`. -/
def Obligations.HeaderByteIsBuffered : Prop :=
  ∀ (s : State) (x : Session) (b : Byte) (n : Fin 6), Addressed s x → Parsing x.regs → x.regs.state = .awaitingHeader →
    n.val = x.regs.hdrCnt.val + 1 →
    exec (.sHdrbuf b) s = .next (putSession s
      { x with regs := { x.regs with hdrBuf := x.regs.hdrBuf.set x.regs.hdrCnt.val b, hdrCnt := n } })

/-- S.HDREND, on match and on mismatch. -/
def Obligations.SixthHeaderByteEndsTheHeader : Prop :=
  ∀ (s : State) (x : Session) (b : Byte) (h : Header), Addressed s x → Parsing x.regs → x.regs.state = .awaitingHeader →
    x.regs.hdrCnt = 5 →
    h = { magic := x.regs.hdrBuf[1] ++ x.regs.hdrBuf[0], command := x.regs.hdrBuf[2], direction := x.regs.hdrBuf[3],
          payloadLength := b ++ x.regs.hdrBuf[4] } →
    exec (.sHdrend b) s = .next (putSession s
      (if h.magic = s.cfg.magic then
        { x with
          regs :=
            { x.regs with
              hdrBuf := x.regs.hdrBuf.set 5 b, hdrCnt := 0, hdr := h, remPayload := h.payloadLength, remFooter := 2,
              cksum := 0x00, ckBad := false,
              state := if h.payloadLength = 0 then .awaitingFooter else .awaitingPayload } }
      else
        { x with
          regs := { x.regs with hdrBuf := x.regs.hdrBuf.set 5 b, hdrCnt := 0, hdr := h, fault := true },
          sink := x.sink ++ [.reject 4 h.magic h.command h.direction h.payloadLength] }))

/-- S.PAY. `i` is the index and `n` the new `rem_payload`, both as naturals; the hypotheses on them are `1 <= rem_payload` and
`rem_payload <= hdr.payloadLength`, which R32 item 3 gives (`StepKeepsTheInvariants`). -/
def Obligations.PayloadByteIsSummedAndPassedOn : Prop :=
  ∀ (s : State) (x : Session) (b : Byte) (i n : Half), Addressed s x → Parsing x.regs → x.regs.state = .awaitingPayload →
    i.toNat + x.regs.remPayload.toNat = x.regs.hdr.payloadLength.toNat → n.toNat + 1 = x.regs.remPayload.toNat →
    exec (.sPay b) s = .next (putSession s
      { x with
        regs :=
          { x.regs with
            cksum := ckApply s.cfg.ckStep x.regs.cksum b, remPayload := n,
            state := if n = 0 then .awaitingFooter else .awaitingPayload },
        sink := x.sink ++ [.pay i b] })

/-- S.FCK, on match and on mismatch. -/
def Obligations.ChecksumByteIsCompared : Prop :=
  ∀ (s : State) (x : Session) (b : Byte), Addressed s x → Parsing x.regs → x.regs.state = .awaitingFooter →
    x.regs.remFooter = 2 →
    exec (.sFck b) s = .next (putSession s
      (if b = x.regs.cksum then { x with regs := { x.regs with ckBad := false, remFooter := 1 } }
      else
        { x with
          regs := { x.regs with ckBad := true, remFooter := 1 }, sink := x.sink ++ [.diagCk x.regs.cksum b] }))

/-- S.FTERM: the event, its reason bits, and the writes. -/
def Obligations.TerminatorByteEndsThePacket : Prop :=
  ∀ (s : State) (x : Session) (b : Byte), Addressed s x → Parsing x.regs → x.regs.state = .awaitingFooter →
    x.regs.remFooter = 1 →
    exec (.sFterm b) s = .next (putSession s
      { x with
        regs := { x.regs with remFooter := 0, ckBad := false, state := .awaitingHeader },
        sink := x.sink ++
          [if x.regs.ckBad = false ∧ b = 0xFF then
            .accept x.regs.hdr.command x.regs.hdr.direction x.regs.hdr.payloadLength
          else
            .reject (BitVec.ofNat 3 ((if b = 0xFF then 0 else 2) + (if x.regs.ckBad = true then 1 else 0)))
              x.regs.hdr.magic x.regs.hdr.command x.regs.hdr.direction x.regs.hdr.payloadLength] })

/-- A byte that would be parsed at a position the invariants exclude stops the machine (U5: `stuck`). -/
def Obligations.ExcludedPositionIsStuck : Prop :=
  ∀ (s : State) (x : Session) (b : Byte), Addressed s x → Parsing x.regs → ExcludedPosition x.regs →
    exec (.sByte b) s = .fault .stuck

/-- A SEL5 operation presented where the selector picks another row is refused (the model's choice, log entry 16). -/
def Obligations.UnselectedOperationIsRefused : Prop :=
  ∀ (s : State) (x : Session) (b : Byte) (op op' : SelOp), Addressed s x → selectOp x.regs = some op' → op' ≠ op →
    exec (selInstr op b) s = .refused (.notSelected op)

/-! ## Deliveries -/

/-- S.DELIVER is its byte steps in increasing order; the empty chunk is no step at all. -/
def Obligations.DeliveryIsItsByteSteps : Prop :=
  ∀ (s : State) (x : Session), Addressed s x →
    exec (.sDeliver []) s = .next s ∧
    ∀ b bs, exec (.sDeliver (b :: bs)) s = andThen (exec (.sByte b) s) (exec (.sDeliver bs))

/-- A delivery of any length completes, from every state within the invariants, and leaves the session within them. -/
def Obligations.DeliveryCompletes : Prop :=
  ∀ (s : State) (x : Session), State.Inv s → Addressed s x → ∀ chunk : List Byte,
    ∃ y, exec (.sDeliver chunk) s = .next (putSession s y) ∧ Session.Inv s.cfg y ∧ y.regs.isOpen = x.regs.isOpen

/-- Chunk-invariance, for every state and with empty chunks allowed (the spec marks R164 as derived from R153). -/
def Obligations.ChunkingDoesNotMatter : Prop :=
  ∀ (s : State) (x : Session), Addressed s x → ∀ chunks : List (List Byte),
    deliverAll s chunks = exec (.sDeliver chunks.flatten) s

/-- A delivery too short to finish the header is copied to `hdr_buf` behind the bytes already there, and nothing else happens
(10_state.md R32 item 7, 42_stream_parser.md R166 case i; both marked as derived). -/
def Obligations.ShortDeliveryFillsTheHeaderBuffer : Prop :=
  ∀ (s : State) (x : Session) (chunk : List Byte), Addressed s x → Parsing x.regs → x.regs.state = .awaitingHeader →
    x.regs.hdrCnt.val + chunk.length < 6 →
    ∃ (buf : Vector Byte hdrbufCap) (n : Fin 6),
      exec (.sDeliver chunk) s = .next (putSession s { x with regs := { x.regs with hdrBuf := buf, hdrCnt := n } }) ∧
      n.val = x.regs.hdrCnt.val + chunk.length ∧
      buf.toList = x.regs.hdrBuf.toList.take x.regs.hdrCnt.val ++ chunk ++
        x.regs.hdrBuf.toList.drop (x.regs.hdrCnt.val + chunk.length)

/-- FRAME.HEADER is the delivery of its six bytes, in every state (log entry 18), and at a frame's start it is accepted. -/
def Obligations.HeaderPatternIsAccepted : Prop :=
  ∀ (s : State) (c d : Byte) (l : Half),
    exec (.frameHeader c d l) s =
      exec (.sDeliver [s.cfg.magic.extractLsb' 0 8, s.cfg.magic.extractLsb' 8 8, c, d, l.extractLsb' 0 8, l.extractLsb' 8 8]) s ∧
    ∀ x : Session, Addressed s x → AtFrameStart x.regs →
      exec (.frameHeader c d l) s = .next (putSession s
        { x with
          regs :=
            { x.regs with
              hdrBuf := #v[s.cfg.magic.extractLsb' 0 8, s.cfg.magic.extractLsb' 8 8, c, d, l.extractLsb' 0 8, l.extractLsb' 8 8],
              hdr := { magic := s.cfg.magic, command := c, direction := d, payloadLength := l }, remPayload := l,
              remFooter := 2, cksum := 0x00, ckBad := false,
              state := if l = 0 then .awaitingFooter else .awaitingPayload } })

/-- FRAME.FOOTER is the delivery of its two bytes, in every state (log entry 18): where a footer is due it ends the packet,
accepted exactly when the checksum byte is `cksum`. -/
def Obligations.FooterPatternEndsThePacket : Prop :=
  ∀ (s : State) (k : Byte),
    exec (.frameFooter k) s = exec (.sDeliver [k, 0xFF]) s ∧
    ∀ x : Session, Addressed s x → Parsing x.regs → x.regs.state = .awaitingFooter → x.regs.remFooter = 2 →
      exec (.frameFooter k) s = .next (putSession s
        { x with
          regs := { x.regs with remFooter := 0, ckBad := false, state := .awaitingHeader },
          sink := x.sink ++
            (if k = x.regs.cksum then [.accept x.regs.hdr.command x.regs.hdr.direction x.regs.hdr.payloadLength]
            else
              [.diagCk x.regs.cksum k,
               .reject 1 x.regs.hdr.magic x.regs.hdr.command x.regs.hdr.direction x.regs.hdr.payloadLength]) })

/-- A footer error is not fatal: whatever the two footer bytes are, the registers end the same, at a frame's start. -/
def Obligations.FooterErrorsLeaveTheSameRegisters : Prop :=
  ∀ (s : State) (x : Session) (k t : Byte), Addressed s x → Parsing x.regs → x.regs.state = .awaitingFooter →
    x.regs.remFooter = 2 → x.regs.hdrCnt = 0 →
    ∃ y, exec (.sDeliver [k, t]) s = .next (putSession s y) ∧
      y.regs = { x.regs with remFooter := 0, ckBad := false, state := .awaitingHeader } ∧ AtFrameStart y.regs

/-- MagicMismatch: at a frame's start, six bytes whose magic is wrong give one REJECT with reason 4, at the sixth byte and not
earlier, and no byte after them has any effect. As a request of format WIRE the six bytes are that same delivery (log entry
18). -/
def Obligations.WrongMagicIsFatal : Prop :=
  ∀ (s : State) (x : Session) (b0 b1 b2 b3 b4 b5 : Byte), Addressed s x → AtFrameStart x.regs →
    b1 ++ b0 ≠ s.cfg.magic →
    (∀ early : List Byte, early.length < 6 → ∃ y,
      exec (.sDeliver early) s = .next (putSession s y) ∧ y.sink = x.sink ∧ y.regs.fault = false) ∧
    decode s.cfg (.wire [b0, b1, b2, b3, b4, b5]) = .instr (.sDeliver [b0, b1, b2, b3, b4, b5]) ∧
    ∃ y, y.regs.fault = true ∧ y.regs.hdr = { magic := b1 ++ b0, command := b2, direction := b3, payloadLength := b5 ++ b4 } ∧
      y.sink = x.sink ++ [.reject 4 (b1 ++ b0) b2 b3 (b5 ++ b4)] ∧
      ∀ rest : List Byte, exec (.sDeliver (b0 :: b1 :: b2 :: b3 :: b4 :: b5 :: rest)) s = .next (putSession s y)

/-- Back-to-back packets: any number of well-formed frames, cut into deliveries in any way, give each its PAY events and one
ACCEPT, in order, and end at a frame's start (the spec marks R170 as derived). -/
def Obligations.BackToBackFramesAreAllAccepted : Prop :=
  ∀ (s : State) (x : Session) (packets : List (Byte × Byte × List Byte)) (chunks : List (List Byte)),
    Addressed s x → AtFrameStart x.regs → (∀ p ∈ packets, p.2.2.length ≤ 65535) →
    chunks.flatten = packets.flatMap (fun p => goodFrame s.cfg p.1 p.2.1 p.2.2) →
    ∃ y, deliverAll s chunks = .next (putSession s y) ∧
      y.sink = x.sink ++ packets.flatMap (fun p => packetEvents p.1 p.2.1 p.2.2) ∧ AtFrameStart y.regs

/-! ## Whole-machine rules of the parser -/

/-- Every step keeps the invariants of R32 (items 1 to 6), the configuration's and DST's. -/
def Obligations.StepKeepsTheInvariants : Prop :=
  ∀ s t : State, State.Inv s → step s = .next t → State.Inv t

/-- The invariants hold at reset: at every configuration with eight distinct catalog values and every number of sessions, and
so at `State.reset`, whose number of sessions (log entry 1), parameters (log entry 2) and empty pending list (log entry 4) are
the model's. -/
def Obligations.InvariantsHoldAtReset : Prop :=
  (∀ (cfg : Config) (n : Nat), cfg.wf = true →
    State.Inv { State.reset with cfg := cfg, sessions := List.replicate n Session.reset }) ∧
  State.Inv State.reset

/-- No state within the invariants gets stuck: the positions of U5 are unreachable, and every session selects an operation for
a byte (U9's selector without a row can stand in a request only, log entry 5, and there faults under its own name). -/
def Obligations.InvariantsExcludeStuck : Prop :=
  ∀ s : State, State.Inv s → step s ≠ .fault .stuck ∧ ∀ x ∈ s.sessions, selectOp x.regs ≠ none

/-- `fault` is sticky: only OPEN, CLOSE and RST of that instance clear it; and it is set only with the REJECT of a header
whose magic is wrong. -/
def Obligations.FaultIsSticky : Prop :=
  ∀ (i : Instr) (s t : State) (k : Nat) (x y : Session), exec i s = .next t → s.sessions[k]? = some x →
    t.sessions[k]? = some y →
    (x.regs.fault = true → y.regs.fault = true ∨ (k = s.target ∧ (i = .rst ∨ i = .sOpen ∨ i = .sClose))) ∧
    (x.regs.fault = false → y.regs.fault = true → ∃ m c d l, m ≠ s.cfg.magic ∧ .reject 4 m c d l ∈ y.sink.drop x.sink.length)

/-- The complete mode transitions (the spec marks R226 as derived). -/
def Obligations.ModeTransitionsAreComplete : Prop :=
  ∀ (s : State) (x : Session), Addressed s x →
    (∃ y, exec .sOpen s = .next (putSession s y) ∧ mode y.regs = .opened) ∧
    (∃ y, exec .sClose s = .next (putSession s y) ∧ mode y.regs = .closed) ∧
    (∃ y, exec .rst s = .next (putSession s y) ∧ mode y.regs = .closed) ∧
    ∀ (b : Byte) (t : State) (y : Session), exec (.sByte b) s = .next t → Addressed t y →
      mode y.regs =
        if mode x.regs = .opened ∧ x.regs.state = .awaitingHeader ∧ x.regs.hdrCnt = 5 ∧
            x.regs.hdrBuf[1] ++ x.regs.hdrBuf[0] ≠ s.cfg.magic then .faulted
        else mode x.regs

/-- The trace only grows, and an operation that is not a sequence of byte steps emits at most one event. -/
def Obligations.TraceGrowsByAtMostOneEvent : Prop :=
  ∀ (i : Instr) (s t : State) (k : Nat) (x y : Session), exec i s = .next t → s.sessions[k]? = some x →
    t.sessions[k]? = some y →
    ∃ new, y.sink = x.sink ++ new ∧ (isManyBytes i = false → new.length ≤ 1)

/-- The reasons that occur are 1, 2, 3 and 4, and no other. -/
def Obligations.OnlyFourReasonsOccur : Prop :=
  ∀ (i : Instr) (s t : State) (k : Nat) (x y : Session), exec i s = .next t → s.sessions[k]? = some x →
    t.sessions[k]? = some y → ∀ q m c d l, .reject q m c d l ∈ y.sink.drop x.sink.length → q = 1 ∨ q = 2 ∨ q = 3 ∨ q = 4

/-- The single-valued validity of the event a packet ends with: magic first, then checksum, then terminator. -/
def Obligations.ValidityIsTheFirstErrorFound : Prop :=
  (∀ (s t : State) (x y : Session) (b : Byte), Addressed s x → exec (.sFterm b) s = .next t → Addressed t y →
    ∃ e, y.sink = x.sink ++ [e] ∧
      validityOf e = some (if x.regs.ckBad = true then .checksumMismatch else if b ≠ 0xFF then .terminatorMismatch else .wellFormed)) ∧
  (∀ (s t : State) (x y : Session) (b : Byte), Addressed s x → exec (.sHdrend b) s = .next t → Addressed t y →
    x.regs.hdrBuf[1] ++ x.regs.hdrBuf[0] ≠ s.cfg.magic →
    ∃ e, y.sink = x.sink ++ [e] ∧ validityOf e = some .magicMismatch)

/-- What an ACCEPT stands for: the PAY bytes since the previous packet's end are exactly `length` bytes, and `cksum` is their
checksum (10_state.md R44, 42_stream_parser.md R169; R44 is marked as derived). -/
def Obligations.AcceptedPayloadIsThePayBytes : Prop :=
  ∀ (s t : State) (x y : Session) (b c d : Byte) (l : Half), State.Inv s → Addressed s x → exec (.sFterm b) s = .next t →
    Addressed t y → y.sink = x.sink ++ [.accept c d l] →
    (payloadOf (sessionTrace y) (sessionTrace x).length).length = l.toNat ∧
    ckFold s.cfg.ckStep (payloadOf (sessionTrace y) (sessionTrace x).length) 0x00 = x.regs.cksum ∧
    x.regs.hdr.magic = s.cfg.magic ∧ heldPayload y = []

/-- Session instances are independent: an operation changes no session but the addressed one and never their number, and what
it does to the addressed one depends on nothing but the configuration and that session itself. -/
def Obligations.SessionsAreIndependent : Prop :=
  ∀ (i : Instr) (s t : State), exec i s = .next t →
    (t.sessions.length = s.sessions.length ∧ ∀ k, k ≠ s.target → t.sessions[k]? = s.sessions[k]?) ∧
    ∀ (s' : State) (x : Session), Addressed s x → Addressed s' x → s'.cfg = s.cfg →
      ∃ t', exec i s' = .next t' ∧ t'.sessions[s'.target]? = t.sessions[s.target]?

/-- Events for two different sessions can be taken in either order: both orders complete and give the same state but for the
model's own record of the session served last. -/
def Obligations.EventsOfTwoSessionsCommute : Prop :=
  ∀ (s : State) (a b : Nat) (x y : Session) (p q : List Byte), a ≠ b → State.Inv s → s.sessions[a]? = some x →
    s.sessions[b]? = some y →
    ∃ l : List Session,
      andThen (exec (.sDeliver p) { s with target := a }) (fun t => exec (.sDeliver q) { t with target := b }) =
        .next { s with sessions := l, target := b } ∧
      andThen (exec (.sDeliver q) { s with target := b }) (fun t => exec (.sDeliver p) { t with target := a }) =
        .next { s with sessions := l, target := a }

/-- The configuration constants are written by no step, the number of sessions does not change, and a session, registers and
trace, is written through the input events only: no call changes one. -/
def Obligations.ConfigurationIsNeverWritten : Prop :=
  (∀ s t : State, step s = .next t → t.cfg = s.cfg ∧ t.sessions.length = s.sessions.length) ∧
  ∀ (i : Instr) (s t : State), isCall i = true → exec i s = .next t → t.sessions = s.sessions ∧ t.pending = s.pending

/-! ## Ports -/

/-- One clock cycle: the priority of the input ports, and that a cycle with none of them at 1 changes nothing and raises no
strobe. -/
def Obligations.PortPriority : Prop :=
  ∀ (cfg : Config) (p : InPorts) (x : Session),
    (p.rst = true → cycleSession cfg p x = .next (resetSession false x)) ∧
    (p.rst = false → p.sessionClose = true → cycleSession cfg p x = .next (resetSession false x)) ∧
    (p.rst = false → p.sessionClose = false → p.sessionOpen = true → cycleSession cfg p x = .next (resetSession true x)) ∧
    (p.rst = false → p.sessionClose = false → p.sessionOpen = false → p.inValid = true →
      cycleSession cfg p x = byteStep cfg p.inData x) ∧
    (p.rst = false → p.sessionClose = false → p.sessionOpen = false → p.inValid = false →
      ∃ o, cycle cfg p x = .next (x, o) ∧ o.pay = none ∧ o.diag = none ∧ o.ev = none)

/-- The output ports of a cycle: ready always; the ten status levels, each the register after the previous step; and a strobe
with its fields exactly when the cycle's step emits that event. That `ev_magic` is `hdr.magic` in an ACCEPT's cycle is deduced
(log entry 24). -/
def Obligations.StrobesShowTheEmittedEvent : Prop :=
  ∀ (cfg : Config) (p : InPorts) (x y : Session) (o : OutPorts), cycle cfg p x = .next (y, o) →
    o.inReady = true ∧
    (o.status.stOpen = x.regs.isOpen ∧ o.status.stFault = x.regs.fault ∧
      o.status.stState = (match x.regs.state with
        | .awaitingHeader => 0b00#2
        | .awaitingPayload => 0b01#2
        | .awaitingFooter => 0b10#2) ∧
      o.status.stHdrCnt.toNat = x.regs.hdrCnt.val ∧ o.status.stCommand = x.regs.hdr.command ∧
      o.status.stDirection = x.regs.hdr.direction ∧ o.status.stLength = x.regs.hdr.payloadLength ∧
      o.status.stRemPayload = x.regs.remPayload ∧ o.status.stRemFooter.toNat = x.regs.remFooter.val ∧
      o.status.stCksum = x.regs.cksum) ∧
    ((y.sink = x.sink ∧ o.pay = none ∧ o.diag = none ∧ o.ev = none) ∨
     (∃ i b, y.sink = x.sink ++ [.pay i b] ∧ o.pay = some (i, b) ∧ o.diag = none ∧ o.ev = none) ∨
     (∃ c v, y.sink = x.sink ++ [.diagCk c v] ∧ o.pay = none ∧ o.diag = some (c, v) ∧ o.ev = none) ∨
     (∃ c d l, y.sink = x.sink ++ [.accept c d l] ∧ o.pay = none ∧ o.diag = none ∧
        o.ev = some { evAccept := true, evReason := 0, evMagic := x.regs.hdr.magic, evCommand := c, evDirection := d,
                      evLength := l }) ∨
     (∃ q m c d l, y.sink = x.sink ++ [.reject q m c d l] ∧ o.pay = none ∧ o.diag = none ∧
        o.ev = some { evAccept := false, evReason := q, evMagic := m, evCommand := c, evDirection := d, evLength := l }))

/-- A step on a port request is that session's clock cycle. The pending list (log entry 4), `target` (log entry 7) and the form
of the cycle (log entry 24) are the model's. -/
def Obligations.PortRequestIsOneCycle : Prop :=
  ∀ (s : State) (k : Nat) (x : Session) (p : InPorts) (rest : List Request), s.pending = ⟨k, portsWord p⟩ :: rest →
    s.sessions[k]? = some x → in4 p ≠ 0 →
    step s = andThen (cycle s.cfg p x) fun yo =>
      .next { s with pending := rest, target := k, sessions := s.sessions.set k yo.1 }

/-! ## The checksum accumulator -/

/-- CK.STEP returns CK_STEP of its operands, which for SUM8 is their sum modulo 256. -/
def Obligations.CkStepReturnsTheStep : Prop :=
  ∀ (s : State) (a b : Byte), ∃ v,
    exec (.ckStep a b) s = .next { s with ret := some (.checksum v) } ∧ v = ckApply s.cfg.ckStep a b ∧
    (s.cfg.ckStep = .sum8 → v.toNat = (a.toNat + b.toNat) % 256)

/-- CK.CALC: the left fold over the first `n` bytes in index order; for a longer `n` see `FalsePreconditionsAreRefused`. -/
def Obligations.CkCalcFoldsTheBytes : Prop :=
  ∀ (s : State) (bytes : List Byte) (n : Nat) (seed : Byte), n ≤ bytes.length →
    exec (.ckCalc bytes n seed) s =
      .next { s with ret := some (.checksum ((bytes.take n).foldl (fun acc b => ckApply s.cfg.ckStep acc b) seed)) }

/-- The splitting law, for every CK_STEP (the spec marks R114 as derived from R112). -/
def Obligations.CkCalcSplits : Prop :=
  ∀ (s : State) (a b : List Byte) (seed : Byte), ∃ v w,
    exec (.ckCalc a a.length seed) s = .next { s with ret := some (.checksum v) } ∧
    exec (.ckCalc b b.length v) s = .next { s with ret := some (.checksum w) } ∧
    exec (.ckCalc (a ++ b) (a.length + b.length) seed) s = .next { s with ret := some (.checksum w) }

/-- CK.CALC under SUM8 is the seed plus the sum of the bytes, modulo 256. -/
def Obligations.Sum8BatchIsTheSumModulo256 : Prop :=
  ∀ (s : State) (bytes : List Byte) (seed : Byte), s.cfg.ckStep = .sum8 → ∃ v,
    exec (.ckCalc bytes bytes.length seed) s = .next { s with ret := some (.checksum v) } ∧
    v.toNat = (seed.toNat + (bytes.map BitVec.toNat).sum) % 256

/-- Every total function of two bytes is a value of the parameter CK_STEP, so a statement about every state holds for each of
them (log entry 3). -/
def Obligations.EveryStepFunctionIsAParameter : Prop :=
  ∀ f : Byte → Byte → Byte, ∃ k : CkStep, ∀ a b, ckApply k a b = f a b

/-- CK.CLR: the value 0x00, which S.HDREND puts into `cksum` when it accepts a header. Called by itself CK.CLR returns that
value and changes nothing else (log entry 17: by R113 the write is no call of its own). -/
def Obligations.CkClrClearsTheChecksum : Prop :=
  ∀ s : State,
    exec .ckClr s = .next { s with ret := some (.checksum 0x00) } ∧
    ∀ (x : Session) (b : Byte), Addressed s x → Parsing x.regs → x.regs.state = .awaitingHeader → x.regs.hdrCnt = 5 →
      ∃ y, exec (.sHdrend b) s = .next (putSession s y) ∧
        y.regs.cksum = if x.regs.hdrBuf[1] ++ x.regs.hdrBuf[0] = s.cfg.magic then 0x00 else x.regs.cksum

/-! ## The codec -/

/-- ENC.BUILD: the frame byte by byte, returned and written to DST from index 0; DST bytes at and beyond the frame's length,
and everything but DST and the returned value, stay as they were. -/
def Obligations.EncBuildWritesTheFrame : Prop :=
  ∀ (s : State) (command : Byte) (payload : List Byte) (cap : Nat), payload.length ≤ 65535 → 6 + payload.length + 2 ≤ cap →
    ∃ (frame : List Byte) (dst : Memory),
      exec (.encBuild command payload cap) s = .next { s with dst := dst, ret := some (.frame frame) } ∧
      frame =
        [BitVec.ofNat 8 s.cfg.magic.toNat, BitVec.ofNat 8 (s.cfg.magic.toNat / 256), command, s.cfg.encDirection,
         BitVec.ofNat 8 payload.length, BitVec.ofNat 8 (payload.length / 256)] ++ payload ++
        [payload.foldl (fun acc b => ckApply s.cfg.ckStep acc b) 0x00, 0xFF] ∧
      ∀ a, memRead dst a = if a < 8 + payload.length then frame[a]? else memRead s.dst a

/-- A call whose precondition is false is refused, and writes and returns nothing: ENC.BUILD's two `require`s, and a length
that reaches beyond SRC (U1 and U2 of 93_implementation_defined.md; for DEC.VERIFY log entry 22). -/
def Obligations.FalsePreconditionsAreRefused : Prop :=
  ∀ s : State,
    (∀ (command : Byte) (payload : List Byte) (cap : Nat),
      (65535 < payload.length → exec (.encBuild command payload cap) s = .refused .encodeTooLong) ∧
      (payload.length ≤ 65535 → cap < 8 + payload.length →
        exec (.encBuild command payload cap) s = .refused .encodeCapacity)) ∧
    (∀ (bytes : List Byte) (n : Nat) (seed : Byte), bytes.length < n →
      exec (.ckCalc bytes n seed) s = .refused .readsBeyondSource) ∧
    (∀ (bytes : List Byte) (d : Decoded), bytes.length < 6 + d.header.payloadLength.toNat →
      exec (.decVerify bytes d) s = .refused .readsBeyondSource)

/-- DEC.ATOMIC: exactly one of the three results, by the three checks in their order, with nothing but the returned value
changed. -/
def Obligations.DecAtomicChecksInOrder : Prop :=
  ∀ (s : State) (bytes : List Byte), ∃ r,
    exec (.decAtomic bytes) s = .next { s with ret := some (.atomic r) } ∧
    (bytes.length < 8 → r = .error .tooShort) ∧
    ∀ (b0 b1 b2 b3 b4 b5 : Byte) (rest : List Byte), bytes = b0 :: b1 :: b2 :: b3 :: b4 :: b5 :: rest → 8 ≤ bytes.length →
      (b1 ++ b0 ≠ s.cfg.magic → r = .error .badMagic) ∧
      (b1 ++ b0 = s.cfg.magic → bytes.length < 6 + (b5 ++ b4).toNat + 2 → r = .error .tooShort) ∧
      (∀ k t, b1 ++ b0 = s.cfg.magic → bytes[6 + (b5 ++ b4).toNat]? = some k → bytes[7 + (b5 ++ b4).toNat]? = some t →
        r = .decoded
          { header := { magic := b1 ++ b0, command := b2, direction := b3, payloadLength := b5 ++ b4 }, command := b2,
            payloadOffset := 6, payloadLength := (b5 ++ b4).toNat, footer := { checksum := k, terminator := t } })

/-- DEC.VERIFY: the two bits of the reason; elsewhere see `FalsePreconditionsAreRefused`. R137 takes a result of DEC.ATOMIC on
the bytes; that the model answers for every `d` whose payload lies within them is its own choice (log entry 23). -/
def Obligations.DecVerifyComparesTheFooter : Prop :=
  ∀ (s : State) (bytes : List Byte) (d : Decoded), 6 + d.header.payloadLength.toNat ≤ bytes.length → ∃ r : BitVec 2,
    exec (.decVerify bytes d) s = .next { s with ret := some (.reason r) } ∧
    (r.getLsbD 0 = true ↔
      d.footer.checksum ≠
        ((bytes.drop 6).take d.header.payloadLength.toNat).foldl (fun acc b => ckApply s.cfg.ckStep acc b) 0x00) ∧
    (r.getLsbD 1 = true ↔ d.footer.terminator ≠ 0xFF)

/-- Round trip: what ENC.BUILD returns, DEC.ATOMIC decodes to the same command and payload, and DEC.VERIFY finds no footer
mismatch (the spec marks R138 as derived). -/
def Obligations.EncodedFramesDecode : Prop :=
  ∀ (s : State) (command : Byte) (payload : List Byte) (cap : Nat), payload.length ≤ 65535 → 8 + payload.length ≤ cap →
    ∃ (t u v : State) (frame : List Byte) (d : Decoded),
      exec (.encBuild command payload cap) s = .next t ∧ t.ret = some (.frame frame) ∧
      exec (.decAtomic frame) t = .next u ∧ u.ret = some (.atomic (.decoded d)) ∧
      d.command = command ∧ payloadView frame d = payload ∧ d.header.direction = s.cfg.encDirection ∧
      d.header.payloadLength.toNat = payload.length ∧
      exec (.decVerify frame d) u = .next v ∧ v.ret = some (.reason 0)

/-- The two decoders agree on every byte sequence of exactly one frame's length: a fresh session given it emits the payload as
PAY events and then ACCEPT or REJECT just as DEC.ATOMIC and DEC.VERIFY say, or one REJECT with reason 4 where DEC.ATOMIC says
BadMagic (the spec marks R139 as derived). -/
def Obligations.ParserAgreesWithAtomicDecoder : Prop :=
  ∀ (s : State) (x : Session) (bytes : List Byte) (b4 b5 : Byte), Addressed s x → bytes[4]? = some b4 → bytes[5]? = some b5 →
    bytes.length = 8 + (b5 ++ b4).toNat →
    ∃ y, andThen (exec .sOpen s) (exec (.sDeliver bytes)) = .next (putSession s y) ∧
      match decodePacket s.cfg bytes with
      | .error .tooShort => False
      | .error .badMagic => ∃ m c d l, sessionTrace y = [.reject 4 m c d l]
      | .decoded d =>
        sessionTrace y = payEvents (payloadView bytes d) ++
          if verifyFooter s.cfg bytes d = 0 then [.accept d.command d.header.direction d.header.payloadLength]
          else
            (if (verifyFooter s.cfg bytes d).getLsbD 0 = true then
              [.diagCk (ckFold s.cfg.ckStep (payloadView bytes d) 0x00) d.footer.checksum]
             else []) ++
            [.reject ((verifyFooter s.cfg bytes d).setWidth 3) d.header.magic d.command d.header.direction
              d.header.payloadLength]

/-- The codec reads and writes no session register, emits no event, and may be called in any lifecycle mode: its result does
not depend on the sessions. -/
def Obligations.CodecTouchesNoSession : Prop :=
  ∀ (i : Instr) (s t : State) (other : List Session), isCodec i = true → exec i s = .next t →
    t.sessions = s.sessions ∧ t.pending = s.pending ∧
    exec i { s with sessions := other } = .next { t with sessions := other }

/-! ## The catalog -/

/-- CAT.NAME: the first entry whose value the byte is, else `unknown`; only the returned value changes. That a request of
format CMD8 runs as CAT.NAME of its byte, for every byte, one without an entry included, is the model's choice (log entry
19). -/
def Obligations.CatNameLooksUpTheByte : Prop :=
  ∀ (s : State) (c : Byte),
    exec (.catName c) s = .next { s with ret := some (.name
      (if c = s.cfg.catalog.printData then .known .printData
       else if c = 0xA3 then .known .status
       else if c = s.cfg.catalog.setHeat then .known .setHeat
       else if c = s.cfg.catalog.printCtrl then .known .printCtrl
       else if c = s.cfg.catalog.setEnergy then .known .setEnergy
       else if c = s.cfg.catalog.draftMode then .known .draftMode
       else if c = s.cfg.catalog.feedSpeed then .known .feedSpeed
       else if c = s.cfg.catalog.printDataCompressed then .known .printDataCompressed
       else .unknown)) } ∧
    ∃ i, decode s.cfg (.cmd8 c) = .instr i ∧ exec i s = exec (.catName c) s

/-- Each catalog entry's row returns that entry's own name, whatever the eight distinct values are (the model's reading of the
CMD8 rows, log entry 19). -/
def Obligations.CatalogRowsReturnTheirNames : Prop :=
  ∀ (s : State) (e : CatEntry), s.cfg.wf = true →
    exec (catInstr e) s = .next { s with ret := some (.name (.known e)) }

/-- Of the 256 byte values 248 are unknown, whatever the eight distinct values are. -/
def Obligations.MostCommandsAreUnknown : Prop :=
  ∀ cat : Catalog, cat.wf = true →
    ((List.range 256).filter fun n => catNameOf cat (BitVec.ofNat 8 n) == .unknown).length = 248

/-- No rule of the checksum, the codec or the parser reads the catalog: with another catalog every other operation does the
same. -/
def Obligations.FramerNeverReadsTheCatalog : Prop :=
  ∀ (i : Instr) (s : State) (cat : Catalog), readsCatalog i = false →
    exec i { s with cfg := { s.cfg with catalog := cat } } =
      andThen (exec i s) fun t => .next { t with cfg := { t.cfg with catalog := cat } }
end

