-- ==== Sys2Proof/Laws/State.lean ====
section
/-! SUPPORT. One lemma per field for each named update of a session, its registers or the state. -/

namespace Sys2Proof.Machine

@[simp] theorem emit_regs (e : OutEvent) (x : Session) : (emit e x).regs = x.regs := rfl
@[simp] theorem emit_sink (e : OutEvent) (x : Session) : (emit e x).sink = x.sink ++ [e] := rfl
@[simp] theorem emit_sinkMark (e : OutEvent) (x : Session) : (emit e x).sinkMark = x.sinkMark := rfl
@[simp] theorem emit_outside (e : OutEvent) (x : Session) : (emit e x).outside = x.outside := rfl

@[simp] theorem raise_regs (e : ParserError) (x : Session) : (raise e x).regs = errorFlag e x.regs := rfl
@[simp] theorem raise_sink (e : ParserError) (x : Session) : (raise e x).sink = x.sink ++ [errorEvent e] := rfl
@[simp] theorem raise_sinkMark (e : ParserError) (x : Session) : (raise e x).sinkMark = x.sinkMark := rfl
@[simp] theorem raise_outside (e : ParserError) (x : Session) : (raise e x).outside = x.outside := rfl

@[simp] theorem resetSession_regs (o : Bool) (x : Session) : (resetSession o x).regs = { Regs.reset with isOpen := o } := rfl
@[simp] theorem resetSession_sink (o : Bool) (x : Session) : (resetSession o x).sink = x.sink := rfl
@[simp] theorem resetSession_sinkMark (o : Bool) (x : Session) : (resetSession o x).sinkMark = x.sink.length := rfl
@[simp] theorem resetSession_outside (o : Bool) (x : Session) : (resetSession o x).outside = x.outside := rfl

@[simp] theorem dropClosed_regs (x : Session) : (dropClosed x).regs = x.regs := rfl
@[simp] theorem dropClosed_sink (x : Session) : (dropClosed x).sink = x.sink := rfl
@[simp] theorem dropClosed_sinkMark (x : Session) : (dropClosed x).sinkMark = x.sinkMark := rfl

@[simp] theorem ckClear_cksum (r : Regs) : (ckClear r).cksum = ckSeed0 := rfl
@[simp] theorem ckClear_isOpen (r : Regs) : (ckClear r).isOpen = r.isOpen := rfl
@[simp] theorem ckClear_fault (r : Regs) : (ckClear r).fault = r.fault := rfl
@[simp] theorem ckClear_state (r : Regs) : (ckClear r).state = r.state := rfl
@[simp] theorem ckClear_hdrBuf (r : Regs) : (ckClear r).hdrBuf = r.hdrBuf := rfl
@[simp] theorem ckClear_hdrCnt (r : Regs) : (ckClear r).hdrCnt = r.hdrCnt := rfl
@[simp] theorem ckClear_hdr (r : Regs) : (ckClear r).hdr = r.hdr := rfl
@[simp] theorem ckClear_remPayload (r : Regs) : (ckClear r).remPayload = r.remPayload := rfl
@[simp] theorem ckClear_remFooter (r : Regs) : (ckClear r).remFooter = r.remFooter := rfl
@[simp] theorem ckClear_ckBad (r : Regs) : (ckClear r).ckBad = r.ckBad := rfl

@[simp] theorem putSession_cfg (s : State) (y : Session) : (putSession s y).cfg = s.cfg := rfl
@[simp] theorem putSession_sessions (s : State) (y : Session) : (putSession s y).sessions = s.sessions.set s.target y := rfl
@[simp] theorem putSession_dst (s : State) (y : Session) : (putSession s y).dst = s.dst := rfl
@[simp] theorem putSession_ret (s : State) (y : Session) : (putSession s y).ret = s.ret := rfl
@[simp] theorem putSession_pending (s : State) (y : Session) : (putSession s y).pending = s.pending := rfl
@[simp] theorem putSession_target (s : State) (y : Session) : (putSession s y).target = s.target := rfl

@[simp] theorem andThen_next {α β : Type} (a : α) (f : α → Host.Outcome β Fault Refusal) : andThen (.next a) f = f a := rfl
@[simp] theorem andThen_fault {α β : Type} (r : Fault) (f : α → Host.Outcome β Fault Refusal) :
    andThen (.fault r) f = .fault r := rfl
@[simp] theorem andThen_refused {α β : Type} (r : Refusal) (f : α → Host.Outcome β Fault Refusal) :
    andThen (.refused r) f = .refused r := rfl

@[simp] theorem heldPayload_dropClosed (x : Session) : heldPayload (dropClosed x) = heldPayload x := rfl

end Sys2Proof.Machine
end

