-- ==== Sys2Proof/Laws/Memory.lean ====
section
/-! SUPPORT. The laws of a byte space: a read after a write, and that every write keeps the canonical form. -/

namespace Sys2Proof.Machine

/-- A read after a write gives the byte written, and every other byte as before. -/
theorem memRead_memWrite (m : Memory) (a b : Nat) (v : Byte) :
    memRead (memWrite m a v) b = if b = a then some v else memRead m b := by
  induction m with
  | nil => by_cases h : a = b <;> simp [memWrite, memRead, h, Memory.unlisted, eq_comm (a := b)]
  | cons c m ih =>
    obtain ⟨k, w⟩ := c
    simp only [memWrite]
    split
    · by_cases h : a = b
      · simp [memRead, h]
      · simp [memRead, h, Ne.symm h]
    · split
      · next h => subst h; by_cases h : a = b
                  · simp [memRead, h]
                  · simp [memRead, h, Ne.symm h]
      · next h => by_cases hk : k = b
                  · subst hk; simp [memRead, Ne.symm h]
                  · simp [memRead, hk, ih]

/-- A list of bytes written at `a` is read back at its indices; every other byte is as before. -/
theorem memRead_memWriteList (bs : List Byte) : ∀ (m : Memory) (a b : Nat),
    memRead (memWriteList m a bs) b = if a ≤ b ∧ b < a + bs.length then bs[b - a]? else memRead m b := by
  induction bs with
  | nil => intro m a b; simp [memWriteList]
  | cons v bs ih =>
    intro m a b
    rw [memWriteList, ih, memRead_memWrite]
    rcases Nat.lt_trichotomy b a with h | h | h
    · rw [if_neg (by omega), if_neg (by omega), if_neg (by omega)]
    · subst h; simp
    · have : b - a = (b - (a + 1)) + 1 := by omega
      simp only [List.length_cons, this, List.getElem?_cons_succ]
      by_cases hb : b < a + 1 + bs.length
      · rw [if_pos (by omega), if_pos (by omega)]
      · rw [if_neg (by omega), if_neg (by omega), if_neg (by omega)]

theorem memWfFrom_mono {n n' : Nat} (h : n' ≤ n) : ∀ {m : Memory}, memWfFrom n m = true → memWfFrom n' m = true
  | [], _ => rfl
  | (k, _) :: m, hm => by
    simp only [memWfFrom, Bool.and_eq_true, decide_eq_true_eq] at hm ⊢
    exact ⟨by omega, hm.2⟩

theorem memWrite_wfFrom (m : Memory) (a : Nat) (v : Byte) : ∀ n, n ≤ a → memWfFrom n m = true →
    memWfFrom n (memWrite m a v) = true := by
  induction m with
  | nil => intro n hn _; simp [memWrite, memWfFrom, hn]
  | cons c m ih =>
    obtain ⟨k, w⟩ := c
    intro n hn hm
    simp only [memWfFrom, Bool.and_eq_true, decide_eq_true_eq] at hm
    simp only [memWrite]
    split
    · simp only [memWfFrom, Bool.and_eq_true, decide_eq_true_eq]; exact ⟨hn, by omega, hm.2⟩
    · split
      · next h => subst h; simpa [memWfFrom, hn] using hm.2
      · simp only [memWfFrom, Bool.and_eq_true, decide_eq_true_eq]; exact ⟨hm.1, ih _ (by omega) hm.2⟩

/-- A write keeps the canonical form. -/
theorem memWrite_wf {m : Memory} (a : Nat) (v : Byte) (h : Memory.wf m = true) : Memory.wf (memWrite m a v) = true :=
  memWrite_wfFrom m a v 0 (Nat.zero_le a) h

/-- Writing a list of bytes keeps the canonical form. -/
theorem memWriteList_wf (bs : List Byte) : ∀ {m : Memory} (a : Nat), Memory.wf m = true →
    Memory.wf (memWriteList m a bs) = true := by
  induction bs with
  | nil => intro m a h; exact h
  | cons v bs ih => intro m a h; exact ih _ (memWrite_wf a v h)

/-- The memory at reset is in canonical form. -/
theorem reset_dst_wf : Memory.wf State.reset.dst = true := rfl

end Sys2Proof.Machine
end

