-- ==== Sys2Proof/Laws/Ops.lean ====
section
/-! SUPPORT. One lemma for each shared operation that says once everything it can do. -/

namespace Sys2Proof.Machine

/-- Two outcomes in sequence answer a next state only through a next state of the first. -/
theorem andThen_eq_next {α β : Type} {o : Host.Outcome α Fault Refusal} {f : α → Host.Outcome β Fault Refusal} {b : β} :
    andThen o f = .next b ↔ ∃ a, o = .next a ∧ f a = .next b := by
  cases o <;> simp

theorem andThen_assoc {α β γ : Type} (o : Host.Outcome α Fault Refusal) (f : α → Host.Outcome β Fault Refusal)
    (g : β → Host.Outcome γ Fault Refusal) : andThen (andThen o f) g = andThen o fun a => andThen (f a) g := by
  cases o <;> rfl

/-- An operation on the addressed session, when there is one. -/
theorem onTarget_addressed {s : State} {x : Session} (h : Addressed s x)
    (f : Session → Host.Outcome Session Fault Refusal) :
    onTarget s f = andThen (f x) fun y => .next (putSession s y) := by
  simp only [Addressed] at h
  simp [onTarget, h]

/-- An operation on the addressed session, when there is none. -/
theorem onTarget_none {s : State} (h : s.sessions[s.target]? = none)
    (f : Session → Host.Outcome Session Fault Refusal) : onTarget s f = .fault .noSuchSession := by
  simp [onTarget, h]

/-- Everything an operation on the addressed session can answer as a next state. -/
theorem onTarget_eq_next {s t : State} {f : Session → Host.Outcome Session Fault Refusal} :
    onTarget s f = .next t ↔ ∃ x y, Addressed s x ∧ f x = .next y ∧ t = putSession s y := by
  unfold onTarget Addressed
  cases h : s.sessions[s.target]? with
  | none => simp
  | some x =>
    simp only [andThen_eq_next, Host.Outcome.next.injEq, Option.some.injEq]
    constructor
    · rintro ⟨y, hy, rfl⟩; exact ⟨x, y, rfl, hy, rfl⟩
    · rintro ⟨x', y, rfl, hy, rfl⟩; exact ⟨y, hy, rfl⟩

/-- The addressed session after it has been replaced. -/
theorem addressed_putSession {s : State} {x : Session} (h : Addressed s x) (y : Session) : Addressed (putSession s y) y := by
  simp only [Addressed, putSession_sessions, putSession_target] at *
  rw [List.getElem?_set_self]
  exact (List.getElem?_eq_some_iff.1 h).1

/-- Replacing the addressed session twice leaves the second. -/
@[simp] theorem putSession_putSession (s : State) (y z : Session) : putSession (putSession s y) z = putSession s z := by
  simp [putSession]

/-- Replacing the addressed session by itself changes nothing. -/
theorem putSession_self {s : State} {x : Session} (h : Addressed s x) : putSession s x = s := by
  simp only [Addressed] at h
  have := List.getElem?_eq_some_iff.1 h
  obtain ⟨hl, rfl⟩ := this
  simp [putSession]

/-- The sessions that are not addressed stay as they were. -/
theorem putSession_other (s : State) (y : Session) {k : Nat} (h : k ≠ s.target) :
    (putSession s y).sessions[k]? = s.sessions[k]? := by
  simp [putSession, List.getElem?_set_ne (Ne.symm h)]

/-- The first row of R98: `open = 0`. -/
theorem decodeSel_closed : ∀ (f : Bool) (c : BitVec 2) (l : Bool),
    decodeSel (bit false ++ bit f ++ c ++ bit l) = some .dropClosed := by decide

/-- The second row of R98: `open = 1`, `fault = 1`. -/
theorem decodeSel_faulted : ∀ (c : BitVec 2) (l : Bool),
    decodeSel (bit true ++ bit true ++ c ++ bit l) = some .dropFault := by decide

/-- The five rows of R98 that parse. -/
theorem decodeSel_parsing :
    decodeSel (bit true ++ bit false ++ stateCode .awaitingHeader ++ bit false) = some .hdrBuf ∧
    decodeSel (bit true ++ bit false ++ stateCode .awaitingHeader ++ bit true) = some .hdrEnd ∧
    decodeSel (bit true ++ bit false ++ stateCode .awaitingPayload ++ bit false) = some .pay ∧
    decodeSel (bit true ++ bit false ++ stateCode .awaitingFooter ++ bit false) = some .fck ∧
    decodeSel (bit true ++ bit false ++ stateCode .awaitingFooter ++ bit true) = some .fterm := by decide

/-- The operation a byte selects, in the words of S.BYTE (42_stream_parser.md R154); none at the positions U5 excludes. -/
theorem selectOp_eq (r : Regs) : selectOp r =
    if r.isOpen = false then some .dropClosed
    else if r.fault = true then some .dropFault
    else match r.state with
      | .awaitingHeader => if r.hdrCnt = 5 then some .hdrEnd else some .hdrBuf
      | .awaitingPayload => if r.remPayload = 0 then none else some .pay
      | .awaitingFooter => if r.remFooter = 0 then none else if r.remFooter = 1 then some .fterm else some .fck := by
  obtain ⟨h0, h1, h2, h3, h4⟩ := decodeSel_parsing
  rcases r with ⟨_ | _, f, st, hb, hc, hd, rp, rf, ck, cb⟩
  · simp [selectOp, stuckPosition, selector, decodeSel_closed]
  · cases f
    · cases st
      · by_cases h : hc = 5
        · simp [selectOp, stuckPosition, selector, lastBit, h, h1]
        · simp [selectOp, stuckPosition, selector, lastBit, h, h0, beq_eq_false_iff_ne.2 h]
      · by_cases h : rp = 0#16 <;> simp [selectOp, stuckPosition, selector, lastBit, h, h2]
      · fin_cases rf <;> simp [selectOp, stuckPosition, selector, lastBit, h3, h4]
    · simp [selectOp, stuckPosition, selector, decodeSel_faulted]

/-- Everything one byte can do to a session as a next state: one of the seven operations, the selected one. -/
theorem byteStep_eq_next {cfg : Config} {b : Byte} {x y : Session} :
    byteStep cfg b x = .next y ↔ ∃ op, selectOp x.regs = some op ∧ y = runOp cfg op b x := by
  unfold byteStep
  cases selectOp x.regs <;> simp [eq_comm]

/-- A byte step never refuses. -/
theorem byteStep_not_refused (cfg : Config) (b : Byte) (x : Session) (r : Refusal) : byteStep cfg b x ≠ .refused r := by
  unfold byteStep
  cases selectOp x.regs <;> simp

/-- Everything a SEL5 operation can do as a next state: it is the one the addressed session selects. -/
theorem runSelected_eq_next {op : SelOp} {b : Byte} {s t : State} :
    runSelected op b s = .next t ↔
      ∃ x, Addressed s x ∧ selectOp x.regs = some op ∧ t = putSession s (runOp s.cfg op b x) := by
  unfold runSelected
  rw [onTarget_eq_next]
  constructor
  · rintro ⟨x, y, hx, hf, rfl⟩
    cases h : selectOp x.regs with
    | none => simp [h] at hf
    | some op' =>
      simp only [h] at hf
      split at hf
      · next e => subst e; simp only [Host.Outcome.next.injEq] at hf; exact ⟨x, hx, h, by rw [hf]⟩
      · simp at hf
  · rintro ⟨x, hx, h, rfl⟩
    exact ⟨x, _, hx, by simp [h], rfl⟩

/-- A chunk's steps are those of its parts, in order. -/
theorem deliver_append (cfg : Config) (a b : List Byte) (x : Session) :
    deliver cfg (a ++ b) x = andThen (deliver cfg a x) (deliver cfg b) := by
  induction a generalizing x with
  | nil => rfl
  | cons c a ih =>
    simp only [List.cons_append, deliver, andThen_assoc]
    congr 1
    funext y
    exact ih y

/-- A call's answer: only the returned value is new. -/
theorem giveRet_eq_next {s t : State} {r : Ret} : giveRet s r = .next t ↔ t = { s with ret := some r } := by
  simp [giveRet, eq_comm]

end Sys2Proof.Machine
end

