-- ==== Sys2Proof/Laws/PerInstr.lean ====
section
/-! SUPPORT. Per-instruction laws about the instruction as syntax: each row is encoded in the format the operation table gives
it (30_encoding.md R106). -/

namespace Sys2Proof.Laws

/-- The format of an instruction's row in the operation table. -/
def tableFormat : Instr → Format
  | .frameHeader _ _ _ => .wire
  | .frameFooter _ => .wire
  | .printData => .cmd8
  | .status => .cmd8
  | .setHeat => .cmd8
  | .printCtrl => .cmd8
  | .setEnergy => .cmd8
  | .draftMode => .cmd8
  | .feedSpeed => .cmd8
  | .printDataCompressed => .cmd8
  | .sDropClosed _ => .sel5
  | .sDropFault _ => .sel5
  | .sHdrbuf _ => .sel5
  | .sHdrend _ => .sel5
  | .sPay _ => .sel5
  | .sFck _ => .sel5
  | .sFterm _ => .sel5
  | .rst => .event
  | .sOpen => .event
  | .sClose => .event
  | .sDeliver _ => .event
  | .sByte _ => .event
  | .ckStep _ _ => .call
  | .ckCalc _ _ _ => .call
  | .ckClr => .call
  | .encBuild _ _ _ => .call
  | .decAtomic _ => .call
  | .decVerify _ _ => .call
  | .catName _ => .call

/-- An instruction's request has the format of its row, whatever the parameters. -/
def EncodeFormat.Statement (i : Instr) : Prop := ∀ cfg : Config, wordFormat (encode cfg i) = tableFormat i

theorem EncodeFormat.frameHeader (c : Byte) (d : Byte) (l : Half) : EncodeFormat.Statement (.frameHeader c d l) := fun _ => rfl
theorem EncodeFormat.frameFooter (k : Byte) : EncodeFormat.Statement (.frameFooter k) := fun _ => rfl
theorem EncodeFormat.printData : EncodeFormat.Statement .printData := fun _ => rfl
theorem EncodeFormat.status : EncodeFormat.Statement .status := fun _ => rfl
theorem EncodeFormat.setHeat : EncodeFormat.Statement .setHeat := fun _ => rfl
theorem EncodeFormat.printCtrl : EncodeFormat.Statement .printCtrl := fun _ => rfl
theorem EncodeFormat.setEnergy : EncodeFormat.Statement .setEnergy := fun _ => rfl
theorem EncodeFormat.draftMode : EncodeFormat.Statement .draftMode := fun _ => rfl
theorem EncodeFormat.feedSpeed : EncodeFormat.Statement .feedSpeed := fun _ => rfl
theorem EncodeFormat.printDataCompressed : EncodeFormat.Statement .printDataCompressed := fun _ => rfl
theorem EncodeFormat.sDropClosed (b : Byte) : EncodeFormat.Statement (.sDropClosed b) := fun _ => rfl
theorem EncodeFormat.sDropFault (b : Byte) : EncodeFormat.Statement (.sDropFault b) := fun _ => rfl
theorem EncodeFormat.sHdrbuf (b : Byte) : EncodeFormat.Statement (.sHdrbuf b) := fun _ => rfl
theorem EncodeFormat.sHdrend (b : Byte) : EncodeFormat.Statement (.sHdrend b) := fun _ => rfl
theorem EncodeFormat.sPay (b : Byte) : EncodeFormat.Statement (.sPay b) := fun _ => rfl
theorem EncodeFormat.sFck (b : Byte) : EncodeFormat.Statement (.sFck b) := fun _ => rfl
theorem EncodeFormat.sFterm (b : Byte) : EncodeFormat.Statement (.sFterm b) := fun _ => rfl
theorem EncodeFormat.rst : EncodeFormat.Statement .rst := fun _ => rfl
theorem EncodeFormat.sOpen : EncodeFormat.Statement .sOpen := fun _ => rfl
theorem EncodeFormat.sClose : EncodeFormat.Statement .sClose := fun _ => rfl
theorem EncodeFormat.sDeliver (chunk : List Byte) : EncodeFormat.Statement (.sDeliver chunk) := fun _ => rfl
theorem EncodeFormat.sByte (b : Byte) : EncodeFormat.Statement (.sByte b) := fun _ => rfl
theorem EncodeFormat.ckStep (s : Byte) (b : Byte) : EncodeFormat.Statement (.ckStep s b) := fun _ => rfl
theorem EncodeFormat.ckCalc (l : List Byte) (n : Nat) (seed : Byte) : EncodeFormat.Statement (.ckCalc l n seed) := fun _ => rfl
theorem EncodeFormat.ckClr : EncodeFormat.Statement .ckClr := fun _ => rfl
theorem EncodeFormat.encBuild (c : Byte) (p : List Byte) (cap : Nat) : EncodeFormat.Statement (.encBuild c p cap) := fun _ => rfl
theorem EncodeFormat.decAtomic (l : List Byte) : EncodeFormat.Statement (.decAtomic l) := fun _ => rfl
theorem EncodeFormat.decVerify (l : List Byte) (d : Decoded) : EncodeFormat.Statement (.decVerify l d) := fun _ => rfl
theorem EncodeFormat.catName (c : Byte) : EncodeFormat.Statement (.catName c) := fun _ => rfl

end Sys2Proof.Laws
end

