-- ==== Sys2Proof/Tests/Slice0.lean ====
section
/-! SUPPORT. Tests with results taken from the spec's tables and vectors (each names its source), and for every statement that
has hypotheses a state that meets them. -/

namespace Sys2Proof.Tests

open Sys2Proof.Machine

/-! ## Small states -/

/-- OPEN0 of 95_test_vectors.md. -/
def open0 : Regs := { Regs.reset with isOpen := true }

/-- AwaitingHeader with `n` bytes buffered. -/
def hdrAt (n : Fin 6) (buf : Vector Byte 6) : Regs := { open0 with hdrCnt := n, hdrBuf := buf }

/-- The registers inside the packet with the header 51 78 10 00 05 00. -/
def inPacket (st : PState) (rem : Half) (foot : Fin 3) (ck : Byte) (bad : Bool) : Regs :=
  { open0 with
    state := st, hdrBuf := #v[0x51, 0x78, 0x10, 0x00, 0x05, 0x00],
    hdr := { magic := 0x7851, command := 0x10, direction := 0x00, payloadLength := 5 },
    remPayload := rem, remFooter := foot, cksum := ck, ckBad := bad }

/-- The before-state of V62 and V66: FAULTED by the header A3 78 A3 00 00 00. -/
def faulted : Regs :=
  { open0 with
    fault := true, hdrBuf := #v[0xA3, 0x78, 0xA3, 0x00, 0x00, 0x00],
    hdr := { magic := 0x78A3, command := 0xA3, direction := 0x00, payloadLength := 0 } }

/-- A session with these registers and an empty trace. -/
def sess (r : Regs) : Session := { regs := r, sink := [], sinkMark := 0, outside := false }

/-- A machine with these sessions. -/
def machine (xs : List Session) : State := { State.reset with sessions := xs }

/-- A machine with one session. -/
def one (r : Regs) : State := machine [sess r]

/-- The registers of the first session of a next state. -/
def regsAfter (o : Host.Outcome State Fault Refusal) : Option Regs :=
  match o with
  | .next t => t.sessions.head?.map (·.regs)
  | _ => none

/-- The trace of the first session of a next state. -/
def sinkAfter (o : Host.Outcome State Fault Refusal) : Option (List OutEvent) :=
  match o with
  | .next t => t.sessions.head?.map (·.sink)
  | _ => none

/-- The next state. -/
def stateAfter (o : Host.Outcome State Fault Refusal) : Option State :=
  match o with
  | .next t => some t
  | _ => none

/-- Why a step is refused. -/
def refusalOf (o : Host.Outcome State Fault Refusal) : Option Refusal :=
  match o with
  | .refused r => some r
  | _ => none

/-- Why a step faults. -/
def faultOf (o : Host.Outcome State Fault Refusal) : Option Fault :=
  match o with
  | .fault f => some f
  | _ => none

/-- The value a call returned. -/
def returned (o : Host.Outcome State Fault Refusal) : Option Ret :=
  match o with
  | .next t => t.ret
  | _ => none

/-! ## WellFormed -/

/-- CK.CALC with one byte more than there is. -/
theorem test_wf_ck_calc : Instr.wf (.ckCalc [0x01] 2 0x00) = false ∧ Instr.wf (.ckCalc [0x01] 1 0x00) = true := by decide

/-- V37: a payload of 65536 bytes. -/
theorem test_wf_enc_length : Instr.wf (.encBuild 0x01 (List.replicate 65536 0x00) 70000) = false := by
  simp only [Instr.wf, wfEncLength, List.length_replicate]
  decide

/-- V32 and V31: capacity 7 and 8 for the empty payload. -/
theorem test_wf_enc_cap : Instr.wf (.encBuild 0xA3 [] 7) = false ∧ Instr.wf (.encBuild 0xA3 [] 8) = true := by decide

/-- A header view of length 1 whose payload would lie beyond six bytes. -/
def shortDecoded : Decoded :=
  { header := { magic := 0x7851, command := 0, direction := 0, payloadLength := 1 }, command := 0, payloadOffset := 6,
    payloadLength := 1, footer := { checksum := 0, terminator := 0xFF } }

theorem test_wf_dec_verify :
    Instr.wf (.decVerify [0, 0, 0, 0, 0, 0] shortDecoded) = false ∧
    Instr.wf (.decVerify [0, 0, 0, 0, 0, 0, 0] shortDecoded) = true := by decide

/-- A catalog whose PRINT_DATA is STATUS's byte breaks R192. -/
theorem test_wf_catalog : Catalog.wf { Catalog.default with printData := 0xA3 } = false ∧ Catalog.default.wf = true := by decide

/-! ## Decoding: words written out from the operation table -/

/-- 0101000101111000 cccccccc dddddddd llllllll hhhhhhhh and kkkkkkkk 11111111 (R81, R87), V21 and V27; bytes of neither
pattern arrive all the same (R92, R93). -/
theorem test_decode_wire :
    decodeTableWord 48 0b010100010111100000010000000000000000010100000000 = some (.frameHeader 0x10 0x00 5) ∧
    decodeTableWord 48 0b010100010111100011111111111111110011010000010010 = some (.frameHeader 0xFF 0xFF 0x1234) ∧
    decodeTableWord 48 0b011110000101000110100011000000000000000000000000 =
      some (.sDeliver [0x78, 0x51, 0xA3, 0x00, 0x00, 0x00]) ∧
    decodeTableWord 16 0b0000111111111111 = some (.frameFooter 0x0F) ∧
    decodeTableWord 16 0b0000111111111110 = some (.sDeliver [0x0F, 0xFE]) := by decide

/-- The command bytes of R192; any other is CAT.NAME's operand (R191). -/
theorem test_decode_cmd8 :
    decodeTableWord 8 0xA2 = some .printData ∧ decodeTableWord 8 0xA3 = some .status ∧
    decodeTableWord 8 0xA4 = some .setHeat ∧ decodeTableWord 8 0xA6 = some .printCtrl ∧
    decodeTableWord 8 0xAF = some .setEnergy ∧ decodeTableWord 8 0xBE = some .draftMode ∧
    decodeTableWord 8 0xBD = some .feedSpeed ∧ decodeTableWord 8 0xBF = some .printDataCompressed ∧
    decodeTableWord 8 0xA5 = some (.catName 0xA5) := by decide

/-- The selectors 0----, 11---, 10000, 10001, 1001-, 10100, 10101 (R98); 10110 and 10111 are no row (R99). -/
theorem test_decode_sel5 :
    decodeSel 0b00000 = some .dropClosed ∧ decodeSel 0b01111 = some .dropClosed ∧ decodeSel 0b11000 = some .dropFault ∧
    decodeSel 0b11111 = some .dropFault ∧ decodeSel 0b10000 = some .hdrBuf ∧ decodeSel 0b10001 = some .hdrEnd ∧
    decodeSel 0b10010 = some .pay ∧ decodeSel 0b10011 = some .pay ∧ decodeSel 0b10100 = some .fck ∧
    decodeSel 0b10101 = some .fterm ∧ decodeSel 0b10110 = none ∧ decodeSel 0b10111 = none := by decide

theorem test_decode_sel5_table :
    decodeTableWord 8 0b00000 = some (.sDropClosed 0) ∧ decodeTableWord 8 0b11000 = some (.sDropFault 0) ∧
    decodeTableWord 8 0b10000 = some (.sHdrbuf 0) ∧ decodeTableWord 8 0b10001 = some (.sHdrend 0) ∧
    decodeTableWord 8 0b10010 = some (.sPay 0) ∧ decodeTableWord 8 0b10100 = some (.sFck 0) ∧
    decodeTableWord 8 0b10101 = some (.sFterm 0) := by decide

/-- The port vectors 1---, 01--, 001-, 0001 (R106, R47). -/
theorem test_decode_event :
    decodePorts 0b1000 = some .rst ∧ decodePorts 0b1111 = some .rst ∧ decodePorts 0b0111 = some .close ∧
    decodePorts 0b0011 = some .opened ∧ decodePorts 0b0001 = some .byte ∧ decodePorts 0b0000 = none ∧
    decodeTableWord 8 0x8 = some .rst ∧ decodeTableWord 8 0x4 = some .sClose ∧ decodeTableWord 8 0x2 = some .sOpen ∧
    decodeTableWord 8 0x1 = some (.sByte 0) ∧ decodeTableWord 8 0x0 ≠ some .rst := by decide

/-- Format CALL, by the function's name (R106); CK.CALC's seed may be left out (R112). -/
theorem test_decode_call :
    decode Config.default (.call (.ckStep 0xFF 0x01)) = .instr (.ckStep 0xFF 0x01) ∧
    decode Config.default (.call (.ckCalc [0x01] 1 none)) = .instr (.ckCalc [0x01] 1 0x00) ∧
    decode Config.default (.call (.ckCalc [0x01] 1 (some 0x80))) = .instr (.ckCalc [0x01] 1 0x80) ∧
    decode Config.default (.call .ckClr) = .instr .ckClr ∧
    decode Config.default (.call (.encBuild 0xA3 [] 64)) = .instr (.encBuild 0xA3 [] 64) ∧
    decode Config.default (.call (.decAtomic [0x00])) = .instr (.decAtomic [0x00]) ∧
    decode Config.default (.call (.decVerify [0x00] shortDecoded)) = .instr (.decVerify [0x00] shortDecoded) ∧
    decode Config.default (.call (.catName 0xA3)) = .instr (.catName 0xA3) := by decide

theorem test_decode_deliver : decode Config.default (.deliver [0x51]) = .instr (.sDeliver [0x51]) := by decide

/-- V20 and V22 to V27 of parse_header. -/
theorem test_parse_header :
    parseHeader 0x51 0x78 0xA3 0x00 0x00 0x00 = ⟨0x7851, 0xA3, 0x00, 0⟩ ∧
    parseHeader 0x51 0x78 0x30 0x00 0x00 0x01 = ⟨0x7851, 0x30, 0x00, 256⟩ ∧
    parseHeader 0x51 0x78 0x00 0x00 0xFF 0xFF = ⟨0x7851, 0x00, 0x00, 65535⟩ ∧
    parseHeader 0x78 0x51 0xA3 0x00 0x00 0x00 = ⟨0x5178, 0xA3, 0x00, 0⟩ ∧
    parseHeader 0xA3 0x78 0xA3 0x00 0x00 0x00 = ⟨0x78A3, 0xA3, 0x00, 0⟩ ∧
    parseHeader 0x51 0x78 0x20 0x01 0x03 0x00 = ⟨0x7851, 0x20, 0x01, 3⟩ ∧
    parseHeader 0x51 0x78 0xFF 0xFF 0x34 0x12 = ⟨0x7851, 0xFF, 0xFF, 4660⟩ := by decide

/-- A placed table word is what the next step runs: from reset, S.HDRBUF's row buffers its byte, and OPEN's opens. -/
theorem test_step_runs_placed_word :
    regsAfter (step (State.reset.withFetchWord 8 0b10000)) = some (hdrAt 1 #v[0, 0, 0, 0, 0, 0]) ∧
    regsAfter (step (State.reset.withFetchWord 8 0x2)) = some open0 := by decide

/-- A request that is pending in a machine with one session. -/
def asked (r : Regs) (w : Word) : State := { one r with pending := [⟨0, w⟩] }

/-- R92: a header with the magic constant swapped, arriving as six WIRE bytes, is fatal to the session. -/
theorem test_step_wire_wrong_magic :
    sinkAfter (step (asked open0 (.wire [0xA3, 0x78, 0xA3, 0x00, 0x00, 0x00]))) = some [.reject 4 0x78A3 0xA3 0x00 0] ∧
    regsAfter (step (asked open0 (.wire [0xA3, 0x78, 0xA3, 0x00, 0x00, 0x00]))) = some faulted := by decide

/-- R93, V82: a footer with the terminator 00, arriving as two WIRE bytes. -/
theorem test_step_wire_wrong_terminator :
    sinkAfter (step (asked (inPacket .awaitingFooter 0 2 0x0F false) (.wire [0x0F, 0x00]))) =
      some [.reject 2 0x7851 0x10 0x00 5] := by decide

/-- R191: `unknown` is a result, not an error. -/
theorem test_step_unknown_command : returned (step (asked open0 (.cmd8 0xA5))) = some (.name .unknown) := by decide

/-- R99: 1011- matches no row. -/
theorem test_step_no_selector_row :
    faultOf (step (asked open0 (.sel5 0b10110 0x01))) = some .noSelectorRow ∧
    faultOf (step (asked open0 (.sel5 0b10111 0x01))) = some .noSelectorRow := by decide

/-! ## The WIRE rows -/

/-- V70's end state, by the whole header from OPEN0. -/
theorem test_frame_header :
    regsAfter (exec (.frameHeader 0x10 0x00 5) (one open0)) = some (inPacket .awaitingPayload 5 2 0x00 false) := by decide

/-- V79 then V81. -/
theorem test_frame_footer :
    sinkAfter (exec (.frameFooter 0x0F) (one (inPacket .awaitingFooter 0 2 0x0F false))) = some [.accept 0x10 0x00 5] ∧
    regsAfter (exec (.frameFooter 0x0F) (one (inPacket .awaitingFooter 0 2 0x0F false))) =
      some (inPacket .awaitingHeader 0 0 0x0F false) := by decide

/-! ## The parser, one step each (95_test_vectors.md section 6) -/

/-- V61 and V62. -/
theorem test_open :
    regsAfter (exec .sOpen (one (inPacket .awaitingPayload 2 2 0x06 false))) = some open0 ∧
    regsAfter (exec .sOpen (one faulted)) = some open0 := by decide

/-- V63. -/
theorem test_close : regsAfter (exec .sClose (one faulted)) = some Regs.reset := by decide

/-- V64. -/
theorem test_rst : regsAfter (exec .rst (one (inPacket .awaitingPayload 2 2 0x06 false))) = some Regs.reset := by decide

/-- V65. -/
theorem test_drop_closed :
    regsAfter (exec (.sDropClosed 0x51) (one Regs.reset)) = some Regs.reset ∧
    sinkAfter (exec (.sDropClosed 0x51) (one Regs.reset)) = some [] := by decide

/-- V66. -/
theorem test_drop_fault : stateAfter (exec (.sDropFault 0x51) (one faulted)) = some (one faulted) := by decide

/-- V68 and V69. -/
theorem test_hdrbuf :
    regsAfter (exec (.sHdrbuf 0x00) (one open0)) = some (hdrAt 1 #v[0, 0, 0, 0, 0, 0]) ∧
    regsAfter (exec (.sHdrbuf 0x05) (one (hdrAt 4 #v[0x51, 0x78, 0x10, 0x00, 0, 0]))) =
      some (hdrAt 5 #v[0x51, 0x78, 0x10, 0x00, 0x05, 0]) := by decide

/-- V71: an empty payload goes straight to the footer. -/
theorem test_hdrend :
    regsAfter (exec (.sHdrend 0x00) (one (hdrAt 5 #v[0x51, 0x78, 0xA3, 0, 0, 0]))) =
      some
        { open0 with
          state := .awaitingFooter, hdrBuf := #v[0x51, 0x78, 0xA3, 0, 0, 0], hdr := ⟨0x7851, 0xA3, 0, 0⟩,
          remFooter := 2 } := by decide

/-- V73: the wrong magic. -/
theorem test_hdrend_magic :
    regsAfter (exec (.sHdrend 0x00) (one (hdrAt 5 #v[0xA3, 0x78, 0xA3, 0, 0, 0]))) = some faulted ∧
    sinkAfter (exec (.sHdrend 0x00) (one (hdrAt 5 #v[0xA3, 0x78, 0xA3, 0, 0, 0]))) =
      some [.reject 4 0x78A3 0xA3 0x00 0] := by decide

/-- V76. -/
theorem test_pay :
    regsAfter (exec (.sPay 0x01) (one (inPacket .awaitingPayload 5 2 0x00 false))) =
      some (inPacket .awaitingPayload 4 2 0x01 false) ∧
    sinkAfter (exec (.sPay 0x01) (one (inPacket .awaitingPayload 5 2 0x00 false))) = some [.pay 0 0x01] := by decide

/-- V77. -/
theorem test_pay_last :
    regsAfter (exec (.sPay 0x05) (one (inPacket .awaitingPayload 1 2 0x0A false))) =
      some (inPacket .awaitingFooter 0 2 0x0F false) ∧
    sinkAfter (exec (.sPay 0x05) (one (inPacket .awaitingPayload 1 2 0x0A false))) = some [.pay 4 0x05] := by decide

/-- V79. -/
theorem test_fck_match :
    regsAfter (exec (.sFck 0x0F) (one (inPacket .awaitingFooter 0 2 0x0F false))) =
      some (inPacket .awaitingFooter 0 1 0x0F false) ∧
    sinkAfter (exec (.sFck 0x0F) (one (inPacket .awaitingFooter 0 2 0x0F false))) = some [] := by decide

/-- V80. -/
theorem test_fck_mismatch :
    regsAfter (exec (.sFck 0x55) (one (inPacket .awaitingFooter 0 2 0x0F false))) =
      some (inPacket .awaitingFooter 0 1 0x0F true) ∧
    sinkAfter (exec (.sFck 0x55) (one (inPacket .awaitingFooter 0 2 0x0F false))) = some [.diagCk 0x0F 0x55] := by decide

/-- V81 and V82. -/
theorem test_fterm :
    sinkAfter (exec (.sFterm 0xFF) (one (inPacket .awaitingFooter 0 1 0x0F false))) = some [.accept 0x10 0x00 5] ∧
    sinkAfter (exec (.sFterm 0x00) (one (inPacket .awaitingFooter 0 1 0x0F false))) =
      some [.reject 2 0x7851 0x10 0x00 5] ∧
    regsAfter (exec (.sFterm 0x00) (one (inPacket .awaitingFooter 0 1 0x0F false))) =
      some (inPacket .awaitingHeader 0 0 0x0F false) := by decide

/-- V83 and V84. -/
theorem test_fterm_checksum :
    sinkAfter (exec (.sFterm 0xFF) (one (inPacket .awaitingFooter 0 1 0x0F true))) = some [.reject 1 0x7851 0x10 0x00 5] ∧
    sinkAfter (exec (.sFterm 0xFE) (one (inPacket .awaitingFooter 0 1 0x0F true))) =
      some [.reject 3 0x7851 0x10 0x00 5] := by decide

/-- V67 through the dispatch of S.BYTE. -/
theorem test_byte : regsAfter (exec (.sByte 0x51) (one open0)) = some (hdrAt 1 #v[0x51, 0, 0, 0, 0, 0]) := by decide

/-- V85, and the worked example of R153. -/
theorem test_deliver :
    stateAfter (exec (.sDeliver []) (one open0)) = some (one open0) ∧
    sinkAfter (exec (.sDeliver [0x51, 0x78, 0xA3, 0x00, 0x00, 0x00, 0x00, 0xFF]) (one open0)) =
      some [.accept 0xA3 0x00 0] := by decide

/-- The first delivery of P5: the frame after the wrong magic emits nothing. -/
theorem test_deliver_fatal :
    sinkAfter (exec (.sDeliver [0xA3, 0x78, 0xA3, 0, 0, 0, 0, 0xFF, 0x51, 0x78, 0xA3, 0, 0, 0, 0, 0xFF]) (one open0)) =
      some [.reject 4 0x78A3 0xA3 0x00 0] := by decide

/-! ## The checksum -/

/-- V4, V6 (SUM8 / CRC8_07). -/
theorem test_ck_step :
    returned (exec (.ckStep 0xFF 0x01) (one open0)) = some (.checksum 0x00) ∧
    ckApply .crc8_07 0xFF 0x01 = 0xF4 ∧ ckApply .crc8_07 0x12 0x34 = 0xF2 ∧ ckApply .crc8_07 0x00 0xFF = 0xF3 := by decide

/-- V10. -/
theorem test_ck_calc :
    returned (exec (.ckCalc [0x01, 0x02, 0x03, 0x04, 0x05] 5 0x00) (one open0)) = some (.checksum 0x0F) := by decide

/-- The check value of R117: "123456789". -/
theorem test_crc_check_value :
    ckCalc .crc8_07 [0x31, 0x32, 0x33, 0x34, 0x35, 0x36, 0x37, 0x38, 0x39] 9 0x00 = 0xF4 := by
  simp [ckCalc, ckFold, ckApply, crc8, crcRounds, crcRound]

/-- R113: after the header 51 78 10 00 05 00 `cksum` is 0x00 whatever it held before. -/
theorem test_ck_clr_in_hdrend :
    (regsAfter (exec (.sHdrend 0x00) (one { hdrAt 5 #v[0x51, 0x78, 0x10, 0x00, 0x05, 0] with cksum := 0x0F }))).map (·.cksum) =
      some 0x00 := by decide

/-- R35: a call writes no session register, here with a wrong magic buffered. -/
theorem test_ck_clr_writes_no_register :
    stateAfter (exec .ckClr (one { hdrAt 5 #v[0xA3, 0x78, 0xA3, 0, 0, 0] with cksum := 0x0F })) =
      some { one { hdrAt 5 #v[0xA3, 0x78, 0xA3, 0, 0, 0] with cksum := 0x0F } with ret := some (.checksum 0x00) } := by decide

/-! ## The codec -/

/-- V30, V33. -/
theorem test_enc_build :
    returned (exec (.encBuild 0xA3 [] 64) (one open0)) = some (.frame [0x51, 0x78, 0xA3, 0x00, 0x00, 0x00, 0x00, 0xFF]) ∧
    returned (exec (.encBuild 0x10 [0x01, 0x02, 0x03, 0x04, 0x05] 13) (one open0)) =
      some (.frame [0x51, 0x78, 0x10, 0x00, 0x05, 0x00, 0x01, 0x02, 0x03, 0x04, 0x05, 0x0F, 0xFF]) := by decide

/-- V32 and V34. -/
theorem test_enc_build_refused :
    refusalOf (exec (.encBuild 0xA3 [] 7) (one open0)) = some .encodeCapacity ∧
    refusalOf (exec (.encBuild 0x10 [0x01, 0x02, 0x03, 0x04, 0x05] 12) (one open0)) = some .encodeCapacity := by decide

/-- The result of V41. -/
def decoded41 : Decoded :=
  { header := ⟨0x7851, 0x20, 0x01, 3⟩, command := 0x20, payloadOffset := 6, payloadLength := 3, footer := ⟨0x60, 0xFF⟩ }

/-- V49 (as V41, the bytes after the frame ignored), V46, V47, V48, V53. -/
theorem test_dec_atomic :
    returned (exec (.decAtomic [0x51, 0x78, 0x20, 0x01, 0x03, 0x00, 0x10, 0x20, 0x30, 0x60, 0xFF, 0xDE, 0xAD]) (one open0)) =
      some (.atomic (.decoded decoded41)) ∧
    payloadView [0x51, 0x78, 0x20, 0x01, 0x03, 0x00, 0x10, 0x20, 0x30, 0x60, 0xFF] decoded41 = [0x10, 0x20, 0x30] := by decide

theorem test_dec_atomic_errors :
    decodePacket Config.default [0xA3, 0x78, 0xA3, 0, 0, 0, 0, 0xFF] = .error .badMagic ∧
    decodePacket Config.default [0xA3, 0x78, 0xA3, 0, 0, 0, 0] = .error .tooShort ∧
    decodePacket Config.default [0x51, 0x78, 0x20, 0x01, 0x03, 0x00, 0x10, 0x20, 0x30, 0x60] = .error .tooShort ∧
    decodePacket Config.default [0x51, 0x78, 0, 0, 0xFF, 0xFF, 0, 0] = .error .tooShort := by decide

/-- V41 and V50: the result of DEC.VERIFY. -/
theorem test_dec_verify :
    returned (exec (.decVerify [0x51, 0x78, 0x20, 0x01, 0x03, 0x00, 0x10, 0x20, 0x30, 0x60, 0xFF] decoded41) (one open0)) =
      some (.reason 0) ∧
    returned (exec (.decVerify [0x51, 0x78, 0xA3, 0x00, 0x00, 0x00, 0x01, 0xFE]
      { header := ⟨0x7851, 0xA3, 0x00, 0⟩, command := 0xA3, payloadOffset := 6, payloadLength := 0,
        footer := ⟨0x01, 0xFE⟩ }) (one open0)) = some (.reason 3) := by decide

/-- V51 and V52. -/
theorem test_dec_verify_bits :
    verifyFooter Config.default [0x51, 0x78, 0x10, 0, 5, 0, 1, 2, 3, 4, 5, 0x55, 0xFF]
      { header := ⟨0x7851, 0x10, 0, 5⟩, command := 0x10, payloadOffset := 6, payloadLength := 5, footer := ⟨0x55, 0xFF⟩ } = 1 ∧
    verifyFooter Config.default [0x51, 0x78, 0x10, 0, 5, 0, 1, 2, 3, 4, 5, 0x0F, 0x00]
      { header := ⟨0x7851, 0x10, 0, 5⟩, command := 0x10, payloadOffset := 6, payloadLength := 5, footer := ⟨0x0F, 0x00⟩ } = 2 := by
  decide

/-! ## The catalog (95_test_vectors.md section 5) -/

theorem test_cat_name :
    returned (exec (.catName 0xA3) (one open0)) = some (.name (.known .status)) ∧
    returned (exec (.catName 0xBE) (one open0)) = some (.name (.known .draftMode)) ∧
    returned (exec (.catName 0xA5) (one open0)) = some (.name .unknown) := by decide

theorem test_catalog_rows :
    returned (exec .printData (one open0)) = some (.name (.known .printData)) ∧
    returned (exec .status (one open0)) = some (.name (.known .status)) ∧
    returned (exec .setHeat (one open0)) = some (.name (.known .setHeat)) ∧
    returned (exec .printCtrl (one open0)) = some (.name (.known .printCtrl)) ∧
    returned (exec .setEnergy (one open0)) = some (.name (.known .setEnergy)) ∧
    returned (exec .draftMode (one open0)) = some (.name (.known .draftMode)) ∧
    returned (exec .feedSpeed (one open0)) = some (.name (.known .feedSpeed)) ∧
    returned (exec .printDataCompressed (one open0)) = some (.name (.known .printDataCompressed)) := by decide

/-! ## Witnesses: for every statement with hypotheses, states that meet them, each clause at its boundaries -/

/-- The session of P2 after its third delivery: two payload bytes taken. -/
def midPayload : Session :=
  { regs := inPacket .awaitingPayload 3 2 0x03 false, sink := [.pay 0 0x01, .pay 1 0x02], sinkMark := 0, outside := false }

/-- A footer due whose payload is 01 02 03 04 05; `n` footer bytes to come. -/
def midFooter (n : Fin 3) : Session :=
  { regs := inPacket .awaitingFooter 0 n 0x0F false,
    sink := [.pay 0 0x01, .pay 1 0x02, .pay 2 0x03, .pay 3 0x04, .pay 4 0x05], sinkMark := 0, outside := false }

/-- A machine in the middle of a payload, with a session closed beside it. -/
def midMachine : State := machine [midPayload, Session.reset]

/-- A machine at the last byte of a packet. -/
def endMachine : State := machine [midFooter 1]

theorem test_witness_mid_inv : State.Inv midMachine := by
  refine ⟨by decide, ?_, by decide⟩
  intro x hx
  rcases List.mem_pair.1 hx with rfl | rfl
  · exact ⟨⟨by decide, by decide, by decide, by decide, by decide⟩, by decide, by decide, by decide, by decide⟩
  · exact ⟨⟨by decide, by decide, by decide, by decide, by decide⟩, by decide, by decide, by decide, by decide⟩

theorem test_witness_end_inv : State.Inv endMachine := by
  refine ⟨by decide, ?_, by decide⟩
  intro x hx
  rw [List.mem_singleton.1 hx]
  exact ⟨⟨by decide, by decide, by decide, by decide, by decide⟩, by decide, by decide, by decide, by decide⟩

theorem test_witness_DecodeOfEncodeIsTheInstruction : Config.wf Config.default = true := by decide

theorem test_witness_StepRunsTheDecodedInstruction :
    decode Config.default (.cmd8 0xA3) = .instr .status ∧
    decode Config.default (.sel5 0b10110 0x01) = .reject .noSelectorRow ∧
    ({ State.reset with pending := [⟨0, .cmd8 0xA3⟩] } : State).pending = ⟨0, .cmd8 0xA3⟩ :: [] := by decide

theorem test_witness_NoInputEventNoStep :
    State.reset.pending = [] ∧
    ({ State.reset with pending := [⟨0, .ports 0 0x33⟩] } : State).pending = ⟨0, .ports 0 0x33⟩ :: [] := by decide

theorem test_witness_MissingSessionFaults :
    (machine []).sessions[(machine []).target]? = none ∧
    ({ State.reset with target := 1 } : State).sessions[1]? = none := by decide

/-- For RstGivesEveryRegisterItsResetValue, OpenStartsAFreshSession, CloseClearsTheSession, DeliveryIsItsByteSteps,
ChunkingDoesNotMatter and ModeTransitionsAreComplete. -/
theorem test_witness_Addressed : Addressed midMachine midPayload := rfl

/-- Each of the seven branches. -/
theorem test_witness_ByteRunsTheSelectedOperation :
    Addressed (one Regs.reset) (sess Regs.reset) ∧ Regs.reset.isOpen = false ∧
    Addressed (one faulted) (sess faulted) ∧ faulted.isOpen = true ∧ faulted.fault = true ∧
    Addressed (one (hdrAt 4 #v[0, 0, 0, 0, 0, 0])) (sess (hdrAt 4 #v[0, 0, 0, 0, 0, 0])) ∧
    ¬ ExcludedPosition (hdrAt 4 #v[0, 0, 0, 0, 0, 0]) ∧ ¬ ExcludedPosition (hdrAt 5 #v[0, 0, 0, 0, 0, 0]) ∧
    ¬ ExcludedPosition (inPacket .awaitingPayload 1 2 0 false) ∧ ¬ ExcludedPosition (inPacket .awaitingFooter 0 2 0 false) ∧
    ¬ ExcludedPosition (inPacket .awaitingFooter 0 1 0 false) := by
  refine ⟨rfl, rfl, rfl, rfl, rfl, rfl, ?_, ?_, ?_, ?_, ?_⟩ <;> (unfold ExcludedPosition; decide)

theorem test_witness_ClosedSessionDropsTheByte :
    Addressed (one Regs.reset) (sess Regs.reset) ∧ (sess Regs.reset).regs.isOpen = false := ⟨rfl, rfl⟩

theorem test_witness_FaultedSessionDropsEveryByte :
    Addressed (one faulted) (sess faulted) ∧ faulted.isOpen = true ∧ faulted.fault = true ∧
    (Instr.sByte 0x51 ≠ .sOpen ∧ Instr.sByte 0x51 ≠ .sClose ∧ Instr.sByte 0x51 ≠ .rst) ∧
    exec (.sByte 0x51) (one faulted) = .next (one faulted) := ⟨rfl, rfl, rfl, by decide, rfl⟩

/-- The first and the fifth header byte. -/
theorem test_witness_HeaderByteIsBuffered :
    (Addressed (one open0) (sess open0) ∧ Parsing open0 ∧ open0.state = .awaitingHeader ∧ (1 : Fin 6).val = open0.hdrCnt.val + 1) ∧
    Parsing (hdrAt 4 #v[0, 0, 0, 0, 0, 0]) ∧ (5 : Fin 6).val = (hdrAt 4 #v[0, 0, 0, 0, 0, 0]).hdrCnt.val + 1 :=
  ⟨⟨rfl, ⟨rfl, rfl⟩, rfl, rfl⟩, ⟨rfl, rfl⟩, rfl⟩

/-- A match with an empty payload, a match with one payload byte, and a mismatch in one bit. -/
theorem test_witness_SixthHeaderByteEndsTheHeader :
    (Addressed (one (hdrAt 5 #v[0x51, 0x78, 0, 0, 0, 0])) (sess (hdrAt 5 #v[0x51, 0x78, 0, 0, 0, 0])) ∧
      Parsing (hdrAt 5 #v[0x51, 0x78, 0, 0, 0, 0]) ∧ (hdrAt 5 #v[0x51, 0x78, 0, 0, 0, 0]).state = .awaitingHeader ∧
      (hdrAt 5 #v[0x51, 0x78, 0, 0, 0, 0]).hdrCnt = 5) ∧
    completedHeader 0x00 (hdrAt 5 #v[0x51, 0x78, 0, 0, 0, 0]) = ⟨0x7851, 0, 0, 0⟩ ∧
    completedHeader 0x00 (hdrAt 5 #v[0x51, 0x78, 0, 0, 1, 0]) = ⟨0x7851, 0, 0, 1⟩ ∧
    (completedHeader 0x00 (hdrAt 5 #v[0x50, 0x78, 0, 0, 0, 0])).magic ≠ Config.default.magic :=
  ⟨⟨rfl, ⟨rfl, rfl⟩, rfl, rfl⟩, by decide, by decide, by decide⟩

/-- The last payload byte of five, and the first of five. -/
theorem test_witness_PayloadByteIsSummedAndPassedOn :
    (Addressed (one (inPacket .awaitingPayload 1 2 0 false)) (sess (inPacket .awaitingPayload 1 2 0 false)) ∧
      Parsing (inPacket .awaitingPayload 1 2 0 false) ∧ (inPacket .awaitingPayload 1 2 0 false).state = .awaitingPayload) ∧
    ((4 : Half).toNat + (1 : Half).toNat = (5 : Half).toNat ∧ (0 : Half).toNat + 1 = (1 : Half).toNat) ∧
    ((0 : Half).toNat + (5 : Half).toNat = (5 : Half).toNat ∧ (4 : Half).toNat + 1 = (5 : Half).toNat) :=
  ⟨⟨rfl, ⟨rfl, rfl⟩, rfl⟩, by decide, by decide⟩

/-- `cksum` is 0x0F, so the byte 0x0F matches and 0x0E does not. Also for FooterPatternEndsThePacket and
FooterErrorsLeaveTheSameRegisters. -/
theorem test_witness_ChecksumByteIsCompared :
    Addressed (machine [midFooter 2]) (midFooter 2) ∧ Parsing (midFooter 2).regs ∧
    (midFooter 2).regs.state = .awaitingFooter ∧ (midFooter 2).regs.remFooter = 2 ∧ (midFooter 2).regs.hdrCnt = 0 ∧
    (midFooter 2).regs.cksum = 0x0F ∧ (0x0E : Byte) ≠ (midFooter 2).regs.cksum :=
  ⟨rfl, ⟨rfl, rfl⟩, rfl, rfl, rfl, rfl, by decide⟩

theorem test_witness_TerminatorByteEndsThePacket :
    Addressed endMachine (midFooter 1) ∧ Parsing (midFooter 1).regs ∧ (midFooter 1).regs.state = .awaitingFooter ∧
    (midFooter 1).regs.remFooter = 1 := ⟨rfl, ⟨rfl, rfl⟩, rfl, rfl⟩

theorem test_witness_ExcludedPositionIsStuck :
    (Addressed (one (inPacket .awaitingPayload 0 2 0 false)) (sess (inPacket .awaitingPayload 0 2 0 false)) ∧
      Parsing (inPacket .awaitingPayload 0 2 0 false) ∧ ExcludedPosition (inPacket .awaitingPayload 0 2 0 false)) ∧
    Parsing (inPacket .awaitingFooter 0 0 0 false) ∧ ExcludedPosition (inPacket .awaitingFooter 0 0 0 false) :=
  ⟨⟨rfl, ⟨rfl, rfl⟩, .inl ⟨rfl, rfl⟩⟩, ⟨rfl, rfl⟩, .inr ⟨rfl, rfl⟩⟩

theorem test_witness_UnselectedOperationIsRefused :
    Addressed (one open0) (sess open0) ∧ selectOp open0 = some .hdrBuf ∧ SelOp.hdrBuf ≠ .pay := by
  refine ⟨rfl, ?_⟩
  decide

/-- For DeliveryCompletes. -/
theorem test_witness_DeliveryCompletes : State.Inv midMachine ∧ Addressed midMachine midPayload :=
  ⟨test_witness_mid_inv, rfl⟩

/-- Five bytes from the start, none, and one behind four. -/
theorem test_witness_ShortDeliveryFillsTheHeaderBuffer :
    Addressed (one open0) (sess open0) ∧ Parsing open0 ∧ open0.state = .awaitingHeader ∧
    open0.hdrCnt.val + [0x51, 0x78, 0x10, 0x00, (0x05 : Byte)].length < 6 ∧
    (hdrAt 5 #v[0, 0, 0, 0, 0, 0]).hdrCnt.val + ([] : List Byte).length < 6 ∧
    (hdrAt 4 #v[0, 0, 0, 0, 0, 0]).hdrCnt.val + [(0x05 : Byte)].length < 6 :=
  ⟨rfl, ⟨rfl, rfl⟩, rfl, by decide, by decide, by decide⟩

/-- For HeaderPatternIsAccepted, with `l = 0`, `l = 1` and any other. -/
theorem test_witness_HeaderPatternIsAccepted : Addressed (one open0) (sess open0) ∧ AtFrameStart open0 :=
  ⟨rfl, ⟨rfl, rfl⟩, rfl, rfl⟩

/-- MAGIC_ALT, and five bytes as the longest early delivery. -/
theorem test_witness_WrongMagicIsFatal :
    Addressed (one open0) (sess open0) ∧ AtFrameStart open0 ∧ (0x78 : Byte) ++ (0xA3 : Byte) ≠ (one open0).cfg.magic ∧
    [0xA3, 0x78, 0xA3, 0x00, (0x00 : Byte)].length < 6 :=
  ⟨rfl, ⟨⟨rfl, rfl⟩, rfl, rfl⟩, by decide, by decide⟩

/-- P3, cut after its seventh byte; and a payload of the greatest length. -/
theorem test_witness_BackToBackFramesAreAllAccepted :
    Addressed (one open0) (sess open0) ∧ AtFrameStart open0 ∧
    (∀ p ∈ [((0xA3 : Byte), (0x00 : Byte), ([] : List Byte)), (0x20, 0x01, [0x10, 0x20, 0x30])], p.2.2.length ≤ 65535) ∧
    List.flatten [[0x51, 0x78, 0xA3, 0x00, 0x00, 0x00, 0x00],
        [0xFF, 0x51, 0x78, 0x20, 0x01, 0x03, 0x00, 0x10, 0x20, 0x30, 0x60, 0xFF]] =
      [((0xA3 : Byte), (0x00 : Byte), ([] : List Byte)), (0x20, 0x01, [0x10, 0x20, 0x30])].flatMap
        (fun p => goodFrame (one open0).cfg p.1 p.2.1 p.2.2) ∧
    (List.replicate 65535 (0x00 : Byte)).length ≤ 65535 :=
  ⟨rfl, ⟨⟨rfl, rfl⟩, rfl, rfl⟩, by decide, by decide, by rw [List.length_replicate]⟩

theorem test_witness_StepKeepsTheInvariants :
    State.Inv midMachine ∧ stateAfter (step midMachine) = some midMachine := ⟨test_witness_mid_inv, by decide⟩

/-- A byte to a faulted session, the header that faults one, and the reset that clears the fault. -/
theorem test_witness_FaultIsSticky :
    (stateAfter (exec (.sByte 0x51) (one faulted)) = some (one faulted) ∧ (one faulted).sessions[0]? = some (sess faulted) ∧
      faulted.fault = true) ∧
    ((hdrAt 5 #v[0xA3, 0x78, 0xA3, 0, 0, 0]).fault = false ∧
      (regsAfter (exec (.sHdrend 0x00) (one (hdrAt 5 #v[0xA3, 0x78, 0xA3, 0, 0, 0])))).map (·.fault) = some true) ∧
    (regsAfter (exec .rst (one faulted))).map (·.fault) = some false := by decide

/-- A step that emits nothing and one that emits one event. Also for OnlyFourReasonsOccur, SessionsAreIndependent and
ConfigurationIsNeverWritten. -/
theorem test_witness_TraceGrowsByAtMostOneEvent :
    (one open0).sessions[0]? = some (sess open0) ∧
    stateAfter (exec (.sHdrbuf 0x00) (one open0)) = some (one (hdrAt 1 #v[0, 0, 0, 0, 0, 0])) ∧
    (one (hdrAt 1 #v[0, 0, 0, 0, 0, 0])).sessions[0]? = some (sess (hdrAt 1 #v[0, 0, 0, 0, 0, 0])) ∧
    sinkAfter (exec (.sFterm 0xFE) (one (inPacket .awaitingFooter 0 1 0x0F true))) = some [.reject 3 0x7851 0x10 0x00 5] := by
  decide

/-- The session that S.FTERM leaves behind where S.FCK found nothing wrong. -/
def accepted : Session :=
  { midFooter 1 with
    regs := inPacket .awaitingHeader 0 0 0x0F false, sink := (midFooter 1).sink ++ [.accept 0x10 0x00 5] }

/-- The wrong-magic clause: the header of V73. The first clause is met by the next witness. -/
theorem test_witness_ValidityIsTheFirstErrorFound :
    Addressed (one (hdrAt 5 #v[0xA3, 0x78, 0xA3, 0, 0, 0])) (sess (hdrAt 5 #v[0xA3, 0x78, 0xA3, 0, 0, 0])) ∧
    exec (.sHdrend 0x00) (one (hdrAt 5 #v[0xA3, 0x78, 0xA3, 0, 0, 0])) =
      .next (machine [{ sess faulted with sink := [.reject 4 0x78A3 0xA3 0x00 0] }]) ∧
    Addressed (machine [{ sess faulted with sink := [.reject 4 0x78A3 0xA3 0x00 0] }])
      { sess faulted with sink := [.reject 4 0x78A3 0xA3 0x00 0] } ∧
    (0x78 : Byte) ++ (0xA3 : Byte) ≠ Config.default.magic := ⟨rfl, rfl, rfl, by decide⟩

theorem test_witness_AcceptedPayloadIsThePayBytes :
    State.Inv endMachine ∧ Addressed endMachine (midFooter 1) ∧ exec (.sFterm 0xFF) endMachine = .next (machine [accepted]) ∧
    Addressed (machine [accepted]) accepted ∧ accepted.sink = (midFooter 1).sink ++ [.accept 0x10 0x00 5] :=
  ⟨test_witness_end_inv, rfl, rfl, rfl, rfl⟩

/-- Two machines that hold the same session at different places. -/
theorem test_witness_SessionsAreIndependent :
    Addressed endMachine (midFooter 1) ∧
    Addressed { machine [midPayload, midFooter 1] with target := 1 } (midFooter 1) ∧
    exec (.sFterm 0xFF) endMachine = .next (machine [accepted]) := ⟨rfl, rfl, rfl⟩

/-- Two open sessions, each in the middle of a packet. -/
def twoOpen : State := machine [midPayload, midFooter 2]

theorem test_witness_two_inv : State.Inv twoOpen := by
  refine ⟨by decide, ?_, by decide⟩
  intro x hx
  rcases List.mem_pair.1 hx with rfl | rfl
  · exact ⟨⟨by decide, by decide, by decide, by decide, by decide⟩, by decide, by decide, by decide, by decide⟩
  · exact ⟨⟨by decide, by decide, by decide, by decide, by decide⟩, by decide, by decide, by decide, by decide⟩

theorem test_witness_EventsOfTwoSessionsCommute :
    (0 : Nat) ≠ 1 ∧ State.Inv twoOpen ∧ twoOpen.sessions[0]? = some midPayload ∧
    twoOpen.sessions[1]? = some (midFooter 2) ∧ midPayload.regs.isOpen = true ∧ (midFooter 2).regs.isOpen = true :=
  ⟨by decide, test_witness_two_inv, rfl, rfl, rfl, rfl⟩

/-- One port vector for each clause; each with every lower input at 1. -/
theorem test_witness_PortPriority :
    in4 ⟨true, true, true, true, 0x33⟩ = 0b1111 ∧ in4 ⟨false, true, true, true, 0x33⟩ = 0b0111 ∧
    in4 ⟨false, false, true, true, 0x33⟩ = 0b0011 ∧ in4 ⟨false, false, false, true, 0x33⟩ = 0b0001 ∧
    in4 ⟨false, false, false, false, 0x33⟩ = 0b0000 := by decide

/-- A cycle without an event, and one with an ACCEPT, whose `ev_magic` is MAGIC. -/
theorem test_witness_StrobesShowTheEmittedEvent :
    cycle Config.default ⟨false, false, false, true, 0x51⟩ (sess open0) =
      .next (sess (hdrAt 1 #v[0x51, 0, 0, 0, 0, 0]), outPortsOf open0 none) ∧
    cycle Config.default ⟨false, false, false, true, 0xFF⟩ (midFooter 1) =
      .next (accepted, outPortsOf (midFooter 1).regs (some (.accept 0x10 0x00 5))) ∧
    (outPortsOf (midFooter 1).regs (some (.accept 0x10 0x00 5))).ev = some ⟨true, 0, 0x7851, 0x10, 0x00, 5⟩ :=
  ⟨rfl, rfl, rfl⟩

/-- The status levels of R46, register by register. -/
theorem test_status :
    statusOf (inPacket .awaitingPayload 3 2 0x03 false) = ⟨true, false, 0b01, 0, 0x10, 0x00, 5, 3, 2, 0x03⟩ ∧
    statusOf (hdrAt 5 #v[0, 0, 0, 0, 0, 0]) = ⟨true, false, 0b00, 5, 0, 0, 0, 0, 0, 0⟩ ∧
    statusOf faulted = ⟨true, true, 0b00, 0, 0xA3, 0x00, 0, 0, 0, 0⟩ := by decide

theorem test_witness_PortRequestIsOneCycle :
    ({ one open0 with pending := [⟨0, portsWord ⟨false, false, false, true, 0x51⟩⟩] } : State).pending =
      ⟨0, portsWord ⟨false, false, false, true, 0x51⟩⟩ :: [] ∧
    (one open0).sessions[0]? = some (sess open0) ∧ in4 ⟨false, false, false, true, 0x51⟩ ≠ 0 := by decide

/-- For CkStepReturnsTheStep and Sum8BatchIsTheSumModulo256. -/
theorem test_witness_Sum8 : (one open0).cfg.ckStep = .sum8 := rfl

theorem test_witness_CkCalcFoldsTheBytes : (0 : Nat) ≤ ([] : List Byte).length ∧ 2 ≤ [(0x01 : Byte), 0x02].length := by decide

/-- A header whose magic is right, and one whose magic is wrong. -/
theorem test_witness_CkClrClearsTheChecksum :
    (Addressed (one (hdrAt 5 #v[0x51, 0x78, 0, 0, 0, 0])) (sess (hdrAt 5 #v[0x51, 0x78, 0, 0, 0, 0])) ∧
      Parsing (hdrAt 5 #v[0x51, 0x78, 0, 0, 0, 0]) ∧ (hdrAt 5 #v[0x51, 0x78, 0, 0, 0, 0]).state = .awaitingHeader ∧
      (hdrAt 5 #v[0x51, 0x78, 0, 0, 0, 0]).hdrCnt = 5) ∧
    (0x78 : Byte) ++ (0x51 : Byte) = Config.default.magic ∧ (0 : Byte) ++ (0 : Byte) ≠ Config.default.magic ∧
    Addressed (one (hdrAt 5 #v[0, 0, 0, 0, 0, 0])) (sess (hdrAt 5 #v[0, 0, 0, 0, 0, 0])) :=
  ⟨⟨rfl, ⟨rfl, rfl⟩, rfl, rfl⟩, by decide, by decide, rfl⟩

/-- The longest payload, and a capacity that is exactly enough. Also for EncodedFramesDecode. -/
theorem test_witness_EncBuildWritesTheFrame :
    (List.replicate 65535 (0x00 : Byte)).length ≤ 65535 ∧ 6 + (List.replicate 65535 (0x00 : Byte)).length + 2 ≤ 65543 := by
  rw [List.length_replicate]
  decide

/-- Each clause at the first value that breaks the precondition. -/
theorem test_witness_FalsePreconditionsAreRefused :
    65535 < (List.replicate 65536 (0x00 : Byte)).length ∧
    (([] : List Byte).length ≤ 65535 ∧ 7 < 8 + ([] : List Byte).length) ∧ [(0x01 : Byte)].length < 2 ∧
    [0, 0, 0, 0, 0, (0 : Byte)].length < 6 + shortDecoded.header.payloadLength.toNat := by
  rw [List.length_replicate]
  decide

/-- Seven bytes; eight with a wrong magic; eight that need nine; nine that are exactly enough. -/
theorem test_witness_DecAtomicChecksInOrder :
    [(0x51 : Byte), 0x78, 0, 0, 1, 0, 0].length < 8 ∧
    (8 ≤ [(0xA3 : Byte), 0x78, 0, 0, 0, 0, 0, 0].length ∧ (0x78 : Byte) ++ (0xA3 : Byte) ≠ (one open0).cfg.magic) ∧
    ((0x78 : Byte) ++ (0x51 : Byte) = (one open0).cfg.magic ∧
      [(0x51 : Byte), 0x78, 0, 0, 1, 0, 0, 0].length < 6 + ((0 : Byte) ++ (1 : Byte)).toNat + 2) ∧
    ([(0x51 : Byte), 0x78, 0, 0, 1, 0, 0, 0xAA, 0xFF][6 + ((0 : Byte) ++ (1 : Byte)).toNat]? = some 0xAA ∧
      [(0x51 : Byte), 0x78, 0, 0, 1, 0, 0, 0xAA, 0xFF][7 + ((0 : Byte) ++ (1 : Byte)).toNat]? = some 0xFF) := by decide

theorem test_witness_DecVerifyComparesTheFooter :
    6 + shortDecoded.header.payloadLength.toNat ≤ [0, 0, 0, 0, 0, 0, (0 : Byte)].length := by decide

/-- V40, and a frame with a wrong magic. -/
theorem test_witness_ParserAgreesWithAtomicDecoder :
    Addressed (one Regs.reset) (sess Regs.reset) ∧
    [(0x51 : Byte), 0x78, 0xA3, 0, 0, 0, 0, 0xFF][4]? = some 0 ∧ [(0x51 : Byte), 0x78, 0xA3, 0, 0, 0, 0, 0xFF][5]? = some 0 ∧
    [(0x51 : Byte), 0x78, 0xA3, 0, 0, 0, 0, 0xFF].length = 8 + ((0 : Byte) ++ (0 : Byte)).toNat ∧
    [(0xA3 : Byte), 0x78, 0xA3, 0, 0, 0, 0, 0xFF].length = 8 + ((0 : Byte) ++ (0 : Byte)).toNat :=
  ⟨rfl, by decide, by decide, by decide, by decide⟩

theorem test_witness_CodecTouchesNoSession :
    isCodec (.encBuild 0xA3 [] 64) = true ∧
    (stateAfter (exec (.decAtomic []) (one open0))).isSome = true ∧ isCodec (.decAtomic []) = true := by decide

/-- For CatalogRowsReturnTheirNames, MostCommandsAreUnknown and InvariantsHoldAtReset. -/
theorem test_witness_catalog : (one open0).cfg.wf = true ∧ Catalog.default.wf = true := by decide

/-- For the clause of ConfigurationIsNeverWritten about the calls. -/
theorem test_witness_calls :
    isCall .ckClr = true ∧ (stateAfter (exec .ckClr (one open0))).isSome = true ∧ isCall .status = true := by decide

theorem test_witness_FramerNeverReadsTheCatalog :
    readsCatalog (.sByte 0x51) = false ∧ readsCatalog (.frameHeader 0xA3 0x00 0) = false ∧ readsCatalog .ckClr = false := by
  decide

end Sys2Proof.Tests
end

section
/-! SUPPORT. The port cycle of 10_state.md R47: the pattern rows of R106 are its priority, and so is what a cycle does to the
session. -/

namespace Sys2Proof.Machine

/-- The four pattern rows of R106, read in order, are R47's priority of the four inputs. -/
theorem decodePorts_in4 (p : InPorts) :
    decodePorts (in4 p) =
      if p.rst then some .rst
      else if p.sessionClose then some .close
      else if p.sessionOpen then some .opened
      else if p.inValid then some .byte
      else none := by
  have rows : ∀ r c o v : Bool, decodePorts (bit r ++ bit c ++ bit o ++ bit v) =
      if r then some .rst else if c then some .close else if o then some .opened else if v then some .byte else none := by
    decide
  exact rows p.rst p.sessionClose p.sessionOpen p.inValid

theorem cycleSession_of_rst (cfg : Config) {p : InPorts} (x : Session) (hr : p.rst = true) :
    cycleSession cfg p x = .next (resetSession false x) := by
  simp [cycleSession, decodePorts_in4, hr]

theorem cycleSession_of_close (cfg : Config) {p : InPorts} (x : Session) (hr : p.rst = false)
    (hc : p.sessionClose = true) : cycleSession cfg p x = .next (resetSession false x) := by
  simp [cycleSession, decodePorts_in4, hr, hc]

theorem cycleSession_of_open (cfg : Config) {p : InPorts} (x : Session) (hr : p.rst = false)
    (hc : p.sessionClose = false) (ho : p.sessionOpen = true) :
    cycleSession cfg p x = .next (resetSession true x) := by
  simp [cycleSession, decodePorts_in4, hr, hc, ho]

theorem cycleSession_of_inValid (cfg : Config) {p : InPorts} (x : Session) (hr : p.rst = false)
    (hc : p.sessionClose = false) (ho : p.sessionOpen = false) (hv : p.inValid = true) :
    cycleSession cfg p x = byteStep cfg p.inData x := by
  simp [cycleSession, decodePorts_in4, hr, hc, ho, hv]

theorem cycleSession_of_noInput (cfg : Config) {p : InPorts} (x : Session) (hr : p.rst = false)
    (hc : p.sessionClose = false) (ho : p.sessionOpen = false) (hv : p.inValid = false) :
    cycleSession cfg p x = .next x := by
  simp [cycleSession, decodePorts_in4, hr, hc, ho, hv]

/-- A step that leaves the session as it is adds no event to the trace, so its cycle shows none. -/
theorem cycle_of_cycleSession_unchanged {cfg : Config} {p : InPorts} {x : Session} (h : cycleSession cfg p x = .next x) :
    cycle cfg p x = .next (x, outPortsOf x.regs none) := by
  simp [cycle, h, andThen]

/-- Settles O41, clause by clause from the rules for a cycle's session step; the idle cycle's outputs carry no event. -/
theorem portPriority : Obligations.PortPriority := fun cfg _ x =>
  ⟨cycleSession_of_rst cfg x, cycleSession_of_close cfg x, cycleSession_of_open cfg x, cycleSession_of_inValid cfg x,
    fun hr hc ho hv => ⟨outPortsOf x.regs none,
      cycle_of_cycleSession_unchanged (cycleSession_of_noInput cfg x hr hc ho hv), rfl, rfl, rfl⟩⟩

end Sys2Proof.Machine
end

section
/-! SUPPORT. The checksum accumulator (40_checksum.md): what CK.STEP and CK.CALC answer, the fold one byte at a time, and its
closed form under SUM8. -/

namespace Sys2Proof.Machine

/-- CK.STEP is a call: it returns CK_STEP of its operands (R111). -/
theorem exec_ckStep (a b : Byte) (s : State) :
    exec (.ckStep a b) s = .next { s with ret := some (.checksum (ckApply s.cfg.ckStep a b)) } := rfl

/-- CK.CALC inside its contract is a call too: it returns the checksum of the first `n` bytes (R112). -/
theorem exec_ckCalc_of_le {bytes : List Byte} {n : Nat} (h : n ≤ bytes.length) (seed : Byte) (s : State) :
    exec (.ckCalc bytes n seed) s = .next { s with ret := some (.checksum (ckCalc s.cfg.ckStep bytes n seed)) } :=
  if_pos h

@[simp] theorem ckFold_nil (k : CkStep) (seed : Byte) : ckFold k [] seed = seed := rfl

@[simp] theorem ckFold_cons (k : CkStep) (b : Byte) (bytes : List Byte) (seed : Byte) :
    ckFold k (b :: bytes) seed = ckFold k bytes (ckApply k seed b) := rfl

/-- Over all of its bytes CK.CALC is the whole fold. -/
@[simp] theorem ckCalc_length (k : CkStep) (bytes : List Byte) (seed : Byte) :
    ckCalc k bytes bytes.length seed = ckFold k bytes seed := by
  rw [ckCalc, List.take_length]

/-- One step of SUM8 keeps no carry (R116). -/
theorem ckApply_sum8_toNat (a b : Byte) : (ckApply .sum8 a b).toNat = (a.toNat + b.toNat) % 256 :=
  BitVec.toNat_add a b

/-- Reducing modulo 256 after each byte or once at the end gives the same checksum. -/
theorem ckFold_sum8_toNat (bytes : List Byte) (seed : Byte) :
    (ckFold .sum8 bytes seed).toNat = (seed.toNat + (bytes.map BitVec.toNat).sum) % 256 := by
  induction bytes generalizing seed with
  | nil => simp [Nat.mod_eq_of_lt seed.isLt]
  | cons b bytes ih =>
    rw [ckFold_cons, ih, ckApply_sum8_toNat, Nat.mod_add_mod, List.map_cons, List.sum_cons, Nat.add_assoc]

/-- Settles O44: CK.STEP's answer, and the value of one SUM8 step. -/
theorem ckStepReturnsTheStep : Obligations.CkStepReturnsTheStep := fun s a b =>
  ⟨ckApply s.cfg.ckStep a b, exec_ckStep a b s, rfl, fun hsum => hsum ▸ ckApply_sum8_toNat a b⟩

/-- Settles O45: `ckCalc` is that fold by definition, so this is CK.CALC's answer inside its contract. -/
theorem ckCalcFoldsTheBytes : Obligations.CkCalcFoldsTheBytes := fun s _ _ seed hn =>
  exec_ckCalc_of_le hn seed s

/-- Settles O47: over all the bytes CK.CALC is the fold, whose value under SUM8 is the closed form. -/
theorem sum8BatchIsTheSumModulo256 : Obligations.Sum8BatchIsTheSumModulo256 := by
  intro s bytes seed hsum
  refine ⟨ckFold s.cfg.ckStep bytes seed, ?_, ?_⟩
  · rw [exec_ckCalc_of_le le_rfl, ckCalc_length]
  · rw [hsum, ckFold_sum8_toNat]

end Sys2Proof.Machine
end

section
/-! SUPPORT. The packet codec (41_codec.md): what each of its three operations answers, the bytes of an encoded frame, and the
result of DEC.ATOMIC check by check. -/

namespace Sys2Proof.Machine

/-! ## What the operations answer -/

/-- ENC.BUILD answers a next state exactly inside its preconditions (R129): DST then holds the frame, which is returned. -/
theorem exec_encBuild_eq_next {command : Byte} {payload : List Byte} {cap : Nat} {s t : State} :
    exec (.encBuild command payload cap) s = .next t ↔
      payload.length ≤ maxPayload ∧ frameLen payload.length ≤ cap ∧
        t = { s with dst := memWriteList s.dst 0 (encodedFrame s.cfg command payload),
                     ret := some (.frame (encodedFrame s.cfg command payload)) } := by
  change execEncBuild command payload cap s = .next t ↔ _
  unfold execEncBuild
  split
  · next long => simp [Nat.not_le.2 long]
  · next fits =>
    split
    · next small => simp [Nat.not_le.2 small]
    · next room => simp [giveRet_eq_next, Nat.not_lt.1 fits, Nat.not_lt.1 room]

/-- DEC.ATOMIC is a call: it returns what `decodePacket` finds (R132). -/
theorem exec_decAtomic (bytes : List Byte) (s : State) :
    exec (.decAtomic bytes) s = .next { s with ret := some (.atomic (decodePacket s.cfg bytes)) } := rfl

/-- DEC.VERIFY answers a next state exactly where the payload lies within the bytes: it returns the footer check (R137). -/
theorem exec_decVerify_eq_next {bytes : List Byte} {d : Decoded} {s t : State} :
    exec (.decVerify bytes d) s = .next t ↔
      6 + d.header.payloadLength.toNat ≤ bytes.length ∧
        t = { s with ret := some (.reason (verifyFooter s.cfg bytes d)) } := by
  change execDecVerify bytes d s = .next t ↔ _
  unfold execDecVerify
  split
  · next short => simp [Nat.not_le.2 short]
  · next fits => simp [giveRet_eq_next, Nat.not_lt.1 fits]

/-! ## The bytes of an encoded frame -/

/-- The low byte of a field, as R127 writes it. -/
theorem loByte_eq_ofNat (w : Half) : loByte w = BitVec.ofNat 8 w.toNat := rfl

/-- The high byte of a field, as R127 writes it. -/
theorem hiByte_eq_ofNat (w : Half) : hiByte w = BitVec.ofNat 8 (w.toNat / 256) :=
  congrArg (BitVec.ofNat 8) (Nat.shiftRight_eq_div_pow w.toNat 8)

/-- The frame of R127 byte by byte, for a payload whose length the length field holds. -/
theorem encodedFrame_eq (cfg : Config) (command : Byte) {payload : List Byte} (h : payload.length ≤ maxPayload) :
    encodedFrame cfg command payload =
      [BitVec.ofNat 8 cfg.magic.toNat, BitVec.ofNat 8 (cfg.magic.toNat / 256), command, cfg.encDirection,
        BitVec.ofNat 8 payload.length, BitVec.ofNat 8 (payload.length / 256)] ++ payload ++
      [ckFold cfg.ckStep payload ckSeed0, terminator] := by
  have length_kept : (BitVec.ofNat 16 payload.length).toNat = payload.length :=
    Nat.mod_eq_of_lt (Nat.lt_succ_of_le h)
  simp only [encodedFrame, goodFrame, frameBytes, headerBytes, loByte_eq_ofNat, hiByte_eq_ofNat, length_kept,
    ckCalc_length]

@[simp] theorem encodedFrame_length (cfg : Config) (command : Byte) (payload : List Byte) :
    (encodedFrame cfg command payload).length = 8 + payload.length := by
  simp [encodedFrame, goodFrame, frameBytes, headerBytes]
  omega

/-- Settles O50: ENC.BUILD's answer, the frame's bytes, and a read after the write of the frame at DST index 0. -/
theorem encBuildWritesTheFrame : Obligations.EncBuildWritesTheFrame := by
  intro s command payload cap hlen hcap
  refine ⟨encodedFrame s.cfg command payload, memWriteList s.dst 0 (encodedFrame s.cfg command payload), ?_, ?_, ?_⟩
  · exact exec_encBuild_eq_next.2 ⟨hlen, hcap, rfl⟩
  · exact encodedFrame_eq s.cfg command hlen
  · intro a
    simp [memRead_memWriteList]

/-! ## DEC.ATOMIC, check by check -/

/-- The first check (R133). -/
theorem decodePacket_of_length_lt (cfg : Config) {bytes : List Byte} (h : bytes.length < 8) :
    decodePacket cfg bytes = .error .tooShort :=
  dif_pos h

section
variable {cfg : Config} {b0 b1 b2 b3 b4 b5 : Byte} {rest : List Byte}

/-- The second check, which does not look at the length field (R133). -/
theorem decodePacket_of_badMagic (h8 : 8 ≤ (b0 :: b1 :: b2 :: b3 :: b4 :: b5 :: rest).length)
    (hm : b1 ++ b0 ≠ cfg.magic) :
    decodePacket cfg (b0 :: b1 :: b2 :: b3 :: b4 :: b5 :: rest) = .error .badMagic := by
  rw [decodePacket, dif_neg (Nat.not_lt.2 h8)]
  exact if_pos hm

/-- The third check (R133). -/
theorem decodePacket_of_length_lt_frame (h8 : 8 ≤ (b0 :: b1 :: b2 :: b3 :: b4 :: b5 :: rest).length)
    (hm : b1 ++ b0 = cfg.magic)
    (h : (b0 :: b1 :: b2 :: b3 :: b4 :: b5 :: rest).length < 6 + (b5 ++ b4).toNat + 2) :
    decodePacket cfg (b0 :: b1 :: b2 :: b3 :: b4 :: b5 :: rest) = .error .tooShort := by
  rw [decodePacket, dif_neg (Nat.not_lt.2 h8)]
  exact (if_neg (not_not.2 hm)).trans (dif_pos h)

/-- Two bytes where the footer stands say that the frame is all there, and they are decoded whatever they are (R134). -/
theorem decodePacket_of_footer {k t : Byte} (hm : b1 ++ b0 = cfg.magic)
    (hk : (b0 :: b1 :: b2 :: b3 :: b4 :: b5 :: rest)[6 + (b5 ++ b4).toNat]? = some k)
    (ht : (b0 :: b1 :: b2 :: b3 :: b4 :: b5 :: rest)[7 + (b5 ++ b4).toNat]? = some t) :
    decodePacket cfg (b0 :: b1 :: b2 :: b3 :: b4 :: b5 :: rest) =
      .decoded
        { header := parseHeader b0 b1 b2 b3 b4 b5, command := b2, payloadOffset := 6,
          payloadLength := (b5 ++ b4).toNat, footer := { checksum := k, terminator := t } } := by
  obtain ⟨_, rfl⟩ := List.getElem?_eq_some_iff.1 hk
  obtain ⟨inside, rfl⟩ := List.getElem?_eq_some_iff.1 ht
  have complete : ¬ (b0 :: b1 :: b2 :: b3 :: b4 :: b5 :: rest).length < 6 + (b5 ++ b4).toNat + 2 := by omega
  rw [decodePacket, dif_neg (by omega)]
  exact (if_neg (not_not.2 hm)).trans (dif_neg complete)

end

/-- Settles O52: DEC.ATOMIC returns what `decodePacket` finds, and that is one lemma per outcome of its checks. -/
theorem decAtomicChecksInOrder : Obligations.DecAtomicChecksInOrder := by
  intro s bytes
  refine ⟨decodePacket s.cfg bytes, exec_decAtomic bytes s, decodePacket_of_length_lt s.cfg, ?_⟩
  rintro b0 b1 b2 b3 b4 b5 rest rfl h8
  exact ⟨decodePacket_of_badMagic h8, decodePacket_of_length_lt_frame h8, fun _ _ => decodePacket_of_footer⟩

/-! ## The codec beside the sessions -/

/-- Settles O56: each operation's answer is a function of its operands and of the fields `cfg` and `dst`, and writes `dst` and
`ret` alone. -/
theorem codecTouchesNoSession : Obligations.CodecTouchesNoSession := by
  intro i s t other hi h
  match i, hi with
  | .encBuild command payload cap, _ =>
    obtain ⟨hlen, hcap, rfl⟩ := exec_encBuild_eq_next.1 h
    exact ⟨rfl, rfl, exec_encBuild_eq_next.2 ⟨hlen, hcap, rfl⟩⟩
  | .decAtomic bytes, _ =>
    obtain rfl := Host.Outcome.next.inj ((exec_decAtomic bytes s).symm.trans h)
    exact ⟨rfl, rfl, exec_decAtomic bytes _⟩
  | .decVerify bytes d, _ =>
    obtain ⟨fits, rfl⟩ := exec_decVerify_eq_next.1 h
    exact ⟨rfl, rfl, exec_decVerify_eq_next.2 ⟨fits, rfl⟩⟩

end Sys2Proof.Machine
end

section
/-! SUPPORT. The streaming parser (42_stream_parser.md): which operation a byte selects, what a selected operation, a delivery
and a session event answer, and everything one instruction can answer. -/

namespace Sys2Proof.Machine

/-! ## Which operation a byte selects (R98, R154) -/

theorem selectOp_of_closed {r : Regs} (h : r.isOpen = false) : selectOp r = some .dropClosed := by
  simp [selectOp_eq, h]

theorem selectOp_of_faulted {r : Regs} (ho : r.isOpen = true) (hf : r.fault = true) : selectOp r = some .dropFault := by
  simp [selectOp_eq, ho, hf]

theorem selectOp_hdrBuf {r : Regs} (h : Parsing r) (hs : r.state = .awaitingHeader) (hc : r.hdrCnt ≠ 5) :
    selectOp r = some .hdrBuf := by
  simp [selectOp_eq, h.1, h.2, hs, hc]

theorem selectOp_hdrEnd {r : Regs} (h : Parsing r) (hs : r.state = .awaitingHeader) (hc : r.hdrCnt = 5) :
    selectOp r = some .hdrEnd := by
  simp [selectOp_eq, h.1, h.2, hs, hc]

theorem selectOp_pay {r : Regs} (h : Parsing r) (hs : r.state = .awaitingPayload) (hp : r.remPayload ≠ 0) :
    selectOp r = some .pay := by
  simpa [selectOp_eq, h.1, h.2, hs] using hp

theorem selectOp_fck {r : Regs} (h : Parsing r) (hs : r.state = .awaitingFooter) (hr : r.remFooter = 2) :
    selectOp r = some .fck := by
  simp [selectOp_eq, h.1, h.2, hs, hr]

theorem selectOp_fterm {r : Regs} (h : Parsing r) (hs : r.state = .awaitingFooter) (hr : r.remFooter = 1) :
    selectOp r = some .fterm := by
  simp [selectOp_eq, h.1, h.2, hs, hr]

/-! ## The selected operation -/

/-- A SEL5 row's instruction runs its operation where it is selected. -/
theorem exec_selInstr (op : SelOp) (b : Byte) (s : State) : exec (selInstr op b) s = runSelected op b s := by
  cases op <;> rfl

theorem exec_selInstr_of_selected {s : State} {x : Session} {op : SelOp} (hx : Addressed s x)
    (hsel : selectOp x.regs = some op) (b : Byte) :
    exec (selInstr op b) s = .next (putSession s (runOp s.cfg op b x)) := by
  rw [exec_selInstr]
  exact runSelected_eq_next.2 ⟨x, hx, hsel, rfl⟩

theorem exec_sByte_of_selected {s : State} {x : Session} {op : SelOp} (hx : Addressed s x)
    (hsel : selectOp x.regs = some op) (b : Byte) :
    exec (.sByte b) s = .next (putSession s (runOp s.cfg op b x)) :=
  onTarget_eq_next.2 ⟨x, _, hx, byteStep_eq_next.2 ⟨op, hsel, rfl⟩, rfl⟩

/-- S.BYTE is the operation selected, and it completes. -/
theorem exec_sByte_eq_selInstr {s : State} {x : Session} (op : SelOp) (hx : Addressed s x)
    (hsel : selectOp x.regs = some op) (b : Byte) :
    exec (.sByte b) s = exec (selInstr op b) s ∧ ∃ y, exec (.sByte b) s = .next (putSession s y) :=
  ⟨(exec_sByte_of_selected hx hsel b).trans (exec_selInstr_of_selected hx hsel b).symm,
    _, exec_sByte_of_selected hx hsel b⟩

/-- Settles O10: in each branch of R154's pseudocode the branch's operation is the selected one. -/
theorem byteRunsTheSelectedOperation : Obligations.ByteRunsTheSelectedOperation := by
  intro s x b hx hpos
  split
  · next closed => exact exec_sByte_eq_selInstr .dropClosed hx (selectOp_of_closed closed) b
  next opened =>
  have ho : x.regs.isOpen = true := Bool.eq_true_of_not_eq_false opened
  split
  · next faulted => exact exec_sByte_eq_selInstr .dropFault hx (selectOp_of_faulted ho faulted) b
  next noFault =>
  have parsing : Parsing x.regs := ⟨ho, Bool.eq_false_of_not_eq_true noFault⟩
  split
  · next hs =>
    split
    · next below => exact exec_sByte_eq_selInstr .hdrBuf hx (selectOp_hdrBuf parsing hs (by omega)) b
    · next last => exact exec_sByte_eq_selInstr .hdrEnd hx (selectOp_hdrEnd parsing hs (by omega)) b
  · next hs =>
    have due : x.regs.remPayload ≠ 0 := fun none_left => hpos ⟨parsing, .inl ⟨hs, none_left⟩⟩
    exact exec_sByte_eq_selInstr .pay hx (selectOp_pay parsing hs due) b
  · next hs =>
    have due : x.regs.remFooter ≠ 0 := fun none_left => hpos ⟨parsing, .inr ⟨hs, none_left⟩⟩
    split
    · next two => exact exec_sByte_eq_selInstr .fck hx (selectOp_fck parsing hs two) b
    · next notTwo => exact exec_sByte_eq_selInstr .fterm hx (selectOp_fterm parsing hs (by omega)) b

/-! ## The seven operations one by one -/

/-- Settles O11: the operation's one write is the mark. -/
theorem closedSessionDropsTheByte : Obligations.ClosedSessionDropsTheByte := fun _ _ b hx hclosed =>
  exec_selInstr_of_selected hx (selectOp_of_closed hclosed) b

/-- Settles O13: below the sixth byte S.HDRBUF is selected, and the count it writes is the next one. -/
theorem headerByteIsBuffered : Obligations.HeaderByteIsBuffered := by
  intro s x b n hx hp hs hn
  have below : x.regs.hdrCnt ≠ 5 := by omega
  have next_count : n = x.regs.hdrCnt + 1 := by omega
  rw [next_count]
  exact exec_selInstr_of_selected hx (selectOp_hdrBuf hp hs below) b

/-- S.HDREND on the right magic (R158). -/
theorem endHeader_of_match {cfg : Config} {b : Byte} {x : Session} (h : (completedHeader b x.regs).magic = cfg.magic) :
    endHeader cfg b x =
      { x with regs := acceptHeader (completedHeader b x.regs) (storeHeader b x.regs) } :=
  if_pos h

/-- S.HDREND on a wrong magic (R158, R201). -/
theorem endHeader_of_mismatch {cfg : Config} {b : Byte} {x : Session}
    (h : (completedHeader b x.regs).magic ≠ cfg.magic) :
    endHeader cfg b x =
      raise (.magicMismatch (completedHeader b x.regs)) { x with regs := storeHeader b x.regs } :=
  if_neg h

/-- Settles O14: S.HDREND is selected at the sixth byte, and the comparison of the completed header's magic decides. -/
theorem sixthHeaderByteEndsTheHeader : Obligations.SixthHeaderByteEndsTheHeader := by
  intro s x b h hx hp hs hc hh
  have completed : h = completedHeader b x.regs := hh
  refine (exec_selInstr_of_selected hx (selectOp_hdrEnd hp hs hc) b).trans ?_
  simp only [runOp, completed]
  split
  · next same => rw [endHeader_of_match same]; rfl
  · next differ => rw [endHeader_of_mismatch differ]; rfl

/-- Settles O15: S.PAY is selected while a byte remains; its index and its count do not wrap. -/
theorem payloadByteIsSummedAndPassedOn : Obligations.PayloadByteIsSummedAndPassedOn := by
  intro s x b i n hx hp hs hi hn
  have due : x.regs.remPayload ≠ 0 := by bv_omega
  have index : x.regs.hdr.payloadLength - x.regs.remPayload = i := by bv_omega
  have count : x.regs.remPayload - 1 = n := by bv_omega
  have last_iff : x.regs.remPayload = 1 ↔ n = 0 := by bv_omega
  refine (exec_selInstr_of_selected hx (selectOp_pay hp hs due) b).trans ?_
  simp only [runOp, payloadByte, emit, index, count, last_iff, hs]

/-- Settles O16: S.FCK is selected with two footer bytes due, and the comparison with `cksum` decides. -/
theorem checksumByteIsCompared : Obligations.ChecksumByteIsCompared := by
  intro s x b hx hp hs hr
  refine (exec_selInstr_of_selected hx (selectOp_fck hp hs hr) b).trans ?_
  simp only [runOp, footerChecksum]
  split <;> rfl

/-- The reason bits as R161 adds them up: 2 for the terminator, 1 for the checksum. -/
theorem footerReason_eq_ofNat (termBad ckBad : Bool) :
    footerReason termBad ckBad =
      BitVec.ofNat 3 ((if termBad = true then 2 else 0) + (if ckBad = true then 1 else 0)) := by
  revert termBad ckBad
  decide

/-- S.FTERM's event in the words of R161. -/
theorem footerEvent_eq (b : Byte) (r : Regs) :
    footerEvent b r =
      if r.ckBad = false ∧ b = 0xFF then .accept r.hdr.command r.hdr.direction r.hdr.payloadLength
      else
        .reject (BitVec.ofNat 3 ((if b = 0xFF then 0 else 2) + (if r.ckBad = true then 1 else 0)))
          r.hdr.magic r.hdr.command r.hdr.direction r.hdr.payloadLength := by
  have reason : footerReason (b != terminator) r.ckBad =
      BitVec.ofNat 3 ((if b = 0xFF then 0 else 2) + (if r.ckBad = true then 1 else 0)) := by
    by_cases hb : b = 0xFF <;> simp [footerReason_eq_ofNat, terminator, hb]
  rw [footerEvent, reason]
  rfl

/-- Settles O17: S.FTERM is selected with one footer byte due, and emits R161's event. -/
theorem terminatorByteEndsThePacket : Obligations.TerminatorByteEndsThePacket := by
  intro s x b hx hp hs hr
  rw [← footerEvent_eq]
  exact exec_selInstr_of_selected hx (selectOp_fterm hp hs hr) b

/-! ## Session control -/

theorem exec_sOpen_addressed {s : State} {x : Session} (hx : Addressed s x) :
    exec .sOpen s = .next (putSession s (resetSession true x)) :=
  onTarget_addressed hx _

theorem exec_sClose_addressed {s : State} {x : Session} (hx : Addressed s x) :
    exec .sClose s = .next (putSession s (resetSession false x)) :=
  onTarget_addressed hx _

/-- Settles O8: R151's values are those `resetSession` gives, read off register by register. -/
theorem openStartsAFreshSession : Obligations.OpenStartsAFreshSession := fun _ _ hx => exec_sOpen_addressed hx

/-- Settles O9: R152's values are those `resetSession` gives, read off register by register. -/
theorem closeClearsTheSession : Obligations.CloseClearsTheSession := fun _ _ hx => exec_sClose_addressed hx

/-! ## Deliveries -/

theorem exec_sByte_addressed {s : State} {x : Session} (hx : Addressed s x) (b : Byte) :
    exec (.sByte b) s = andThen (byteStep s.cfg b x) fun y => .next (putSession s y) :=
  onTarget_addressed hx _

theorem exec_sDeliver_addressed {s : State} {x : Session} (hx : Addressed s x) (chunk : List Byte) :
    exec (.sDeliver chunk) s = andThen (deliver s.cfg chunk x) fun y => .next (putSession s y) :=
  onTarget_addressed hx _

/-- The empty delivery is no step (R172). -/
theorem exec_sDeliver_nil {s : State} {x : Session} (hx : Addressed s x) : exec (.sDeliver []) s = .next s := by
  rw [exec_sDeliver_addressed hx, deliver, andThen_next, putSession_self hx]

/-- A delivery is the first byte's step, and the rest of it from the state that step gives (R153). -/
theorem exec_sDeliver_cons {s : State} {x : Session} (hx : Addressed s x) (b : Byte) (bs : List Byte) :
    exec (.sDeliver (b :: bs)) s = andThen (exec (.sByte b) s) (exec (.sDeliver bs)) := by
  have rest : ∀ y, exec (.sDeliver bs) (putSession s y) =
      andThen (deliver s.cfg bs y) fun z => .next (putSession s z) := fun y => by
    simp [exec_sDeliver_addressed (addressed_putSession hx y)]
  simp only [exec_sDeliver_addressed hx, exec_sByte_addressed hx, deliver, andThen_assoc, andThen_next, rest]

/-- Settles O20: the two equations of a delivery. -/
theorem deliveryIsItsByteSteps : Obligations.DeliveryIsItsByteSteps := fun _ _ hx =>
  ⟨exec_sDeliver_nil hx, exec_sDeliver_cons hx⟩

/-! ## Everything one instruction can answer -/

/-- A returned value changes no other field. -/
theorem giveRet_frame {s t : State} {r : Ret} (h : giveRet s r = .next t) :
    t = { s with dst := t.dst, ret := t.ret } := by
  rw [giveRet_eq_next.1 h]

/-- A call writes DST and the returned value at most. -/
theorem exec_call_frame {i : Instr} {s t : State} (hi : isCall i = true) (h : exec i s = .next t) :
    t = { s with dst := t.dst, ret := t.ret } := by
  match i, hi with
  | .ckStep _ _, _ | .ckClr, _ | .decAtomic _, _ | .catName _, _ | .printData, _ | .status, _ | .setHeat, _
  | .printCtrl, _ | .setEnergy, _ | .draftMode, _ | .feedSpeed, _ | .printDataCompressed, _ => exact giveRet_frame h
  | .ckCalc bytes n seed, _ =>
    change execCkCalc bytes n seed s = .next t at h
    unfold execCkCalc at h
    split at h
    · exact giveRet_frame h
    · cases h
  | .encBuild _ _ _, _ => obtain ⟨_, _, rfl⟩ := exec_encBuild_eq_next.1 h; rfl
  | .decVerify _ _, _ => obtain ⟨_, rfl⟩ := exec_decVerify_eq_next.1 h; rfl

/-- A selected operation is the delivery of its one byte. -/
theorem exec_sDeliver_singleton_of_selInstr {op : SelOp} {b : Byte} {s t : State}
    (h : exec (selInstr op b) s = .next t) : exec (.sDeliver [b]) s = .next t := by
  rw [exec_selInstr] at h
  obtain ⟨x, hx, hsel, rfl⟩ := runSelected_eq_next.1 h
  rw [exec_sDeliver_cons hx, exec_sByte_of_selected hx hsel, andThen_next, exec_sDeliver_nil (addressed_putSession hx _)]

/-- Everything an instruction can answer as a next state: it is a reset of the session, a call, or else the delivery of some
bytes. -/
theorem exec_eq_next_cases {i : Instr} {s t : State} (h : exec i s = .next t) :
    (i = .rst ∨ i = .sOpen ∨ i = .sClose) ∨ (isCall i = true ∧ t = { s with dst := t.dst, ret := t.ret }) ∨
      ∃ bytes, exec (.sDeliver bytes) s = .next t := by
  by_cases call : isCall i = true
  · exact .inr (.inl ⟨call, exec_call_frame call h⟩)
  have selected (op : SelOp) (b : Byte) (hop : exec (selInstr op b) s = .next t) :
      ∃ bytes, exec (.sDeliver bytes) s = .next t :=
    ⟨[b], exec_sDeliver_singleton_of_selInstr hop⟩
  match i, call with
  | .rst, _ => exact .inl (.inl rfl)
  | .sOpen, _ => exact .inl (.inr (.inl rfl))
  | .sClose, _ => exact .inl (.inr (.inr rfl))
  | .sDeliver chunk, _ => exact .inr (.inr ⟨chunk, h⟩)
  | .frameHeader c d l, _ => exact .inr (.inr ⟨wireHeader s.cfg c d l, h⟩)
  | .frameFooter k, _ => exact .inr (.inr ⟨wireFooter k, h⟩)
  | .sByte b, _ =>
    obtain ⟨x, y, hx, hb, rfl⟩ := onTarget_eq_next.1 h
    obtain ⟨op, hsel, rfl⟩ := byteStep_eq_next.1 hb
    exact .inr (.inr (selected op b (exec_selInstr_of_selected hx hsel b)))
  | .sDropClosed b, _ => exact .inr (.inr (selected .dropClosed b h))
  | .sDropFault b, _ => exact .inr (.inr (selected .dropFault b h))
  | .sHdrbuf b, _ => exact .inr (.inr (selected .hdrBuf b h))
  | .sHdrend b, _ => exact .inr (.inr (selected .hdrEnd b h))
  | .sPay b, _ => exact .inr (.inr (selected .pay b h))
  | .sFck b, _ => exact .inr (.inr (selected .fck b h))
  | .sFterm b, _ => exact .inr (.inr (selected .fterm b h))

/-! ## A faulted session -/

section
variable {s : State} {x : Session} (hx : Addressed s x) (ho : x.regs.isOpen = true) (hf : x.regs.fault = true)
include hx ho hf

theorem exec_sDropFault_of_faulted (b : Byte) : exec (.sDropFault b) s = .next s :=
  (exec_selInstr_of_selected hx (selectOp_of_faulted ho hf) b).trans (congrArg _ (putSession_self hx))

theorem exec_sByte_of_faulted (b : Byte) : exec (.sByte b) s = .next s :=
  (exec_sByte_of_selected hx (selectOp_of_faulted ho hf) b).trans (congrArg _ (putSession_self hx))

/-- A faulted session discards every byte of a delivery (R156). -/
theorem exec_sDeliver_of_faulted (chunk : List Byte) : exec (.sDeliver chunk) s = .next s := by
  induction chunk with
  | nil => exact exec_sDeliver_nil hx
  | cons b bs ih => rw [exec_sDeliver_cons hx, exec_sByte_of_faulted hx ho hf, andThen_next, ih]

end

/-- Settles O12: what is no reset of the session is a call, which writes no session, or a delivery, which is discarded. -/
theorem faultedSessionDropsEveryByte : Obligations.FaultedSessionDropsEveryByte := by
  intro s x hx ho hf
  refine ⟨exec_sDropFault_of_faulted hx ho hf, exec_sDeliver_of_faulted hx ho hf, ?_⟩
  intro i t not_open not_close not_rst h
  obtain (rfl | rfl | rfl) | ⟨-, frame⟩ | ⟨bytes, delivered⟩ := exec_eq_next_cases h
  · exact absurd rfl not_rst
  · exact absurd rfl not_open
  · exact absurd rfl not_close
  · rw [frame]
    exact hx
  · obtain rfl := Host.Outcome.next.inj ((exec_sDeliver_of_faulted hx ho hf bytes).symm.trans delivered)
    exact hx

end Sys2Proof.Machine
end

section
/-! SUPPORT. The catalog beside the framer (43_command_catalog.md R194): the parser's operations read MAGIC and CK_STEP of the
configuration and the codec's ENC_DIRECTION besides, so that replacing the catalog commutes with each of them. -/

namespace Sys2Proof.Machine

/-- The state with another catalog; no other parameter and no other field changes. -/
def withCatalog (cat : Catalog) (s : State) : State := { s with cfg := { s.cfg with catalog := cat } }

/-- Replacing the catalog before an operation or after it comes to the same, where the operation stops too. -/
def IgnoresCatalog (f : State → Host.Outcome State Fault Refusal) : Prop :=
  ∀ (cat : Catalog) (s : State), f (withCatalog cat s) = andThen (f s) fun t => .next (withCatalog cat t)

/-! ## What the parser reads of the configuration -/

theorem byteStep_withCatalog (cfg : Config) (cat : Catalog) :
    byteStep { cfg with catalog := cat } = byteStep cfg := rfl

theorem deliver_withCatalog (cfg : Config) (cat : Catalog) (bytes : List Byte) :
    deliver { cfg with catalog := cat } bytes = deliver cfg bytes := by
  induction bytes with
  | nil => rfl
  | cons b bs ih => funext x; rw [deliver, deliver, ih, byteStep_withCatalog]

/-! ## The shared operations -/

/-- The catalog has no part in which session is addressed, nor in putting it back. -/
theorem onTarget_withCatalog (cat : Catalog) (s : State) (f : Session → Host.Outcome Session Fault Refusal) :
    onTarget (withCatalog cat s) f = andThen (onTarget s f) fun t => .next (withCatalog cat t) := by
  cases hx : s.sessions[s.target]? with
  | none =>
    have hx' : (withCatalog cat s).sessions[(withCatalog cat s).target]? = none := hx
    rw [onTarget_none hx, onTarget_none hx', andThen_fault]
  | some x =>
    have hx' : Addressed (withCatalog cat s) x := hx
    rw [onTarget_addressed hx, onTarget_addressed hx', andThen_assoc]
    rfl

/-- An operation on the addressed session ignores the catalog where its reading of the configuration does. -/
theorem ignoresCatalog_onTarget {f : Config → Session → Host.Outcome Session Fault Refusal}
    (hf : ∀ (cfg : Config) (cat : Catalog), f { cfg with catalog := cat } = f cfg) :
    IgnoresCatalog fun s => onTarget s (f s.cfg) := fun cat s =>
  (congrArg (onTarget (withCatalog cat s)) (hf s.cfg cat)).trans (onTarget_withCatalog cat s (f s.cfg))

/-- A SEL5 operation: the selector is made of registers, and the operation it picks reads MAGIC and CK_STEP at most. -/
theorem ignoresCatalog_runSelected (op : SelOp) (b : Byte) : IgnoresCatalog (runSelected op b) :=
  fun cat s => onTarget_withCatalog cat s _

/-- A delivery of bytes that may depend on the configuration, as FRAME.HEADER's do on MAGIC. -/
theorem ignoresCatalog_deliver {bytes : Config → List Byte}
    (hb : ∀ (cfg : Config) (cat : Catalog), bytes { cfg with catalog := cat } = bytes cfg) :
    IgnoresCatalog fun s => onTarget s (deliver s.cfg (bytes s.cfg)) :=
  ignoresCatalog_onTarget (f := fun cfg => deliver cfg (bytes cfg)) fun cfg cat => by rw [hb, deliver_withCatalog]

/-- A reset of the addressed session reads no parameter. -/
theorem ignoresCatalog_resetSession (o : Bool) :
    IgnoresCatalog fun s => onTarget s fun x => .next (resetSession o x) :=
  ignoresCatalog_onTarget (f := fun _ x => .next (resetSession o x)) fun _ _ => rfl

/-! ## The calls with preconditions, which speak of their operands alone -/

theorem ignoresCatalog_execCkCalc (bytes : List Byte) (n : Nat) (seed : Byte) :
    IgnoresCatalog (execCkCalc bytes n seed) := by
  intro cat s
  unfold execCkCalc
  split <;> rfl

theorem ignoresCatalog_execEncBuild (command : Byte) (payload : List Byte) (cap : Nat) :
    IgnoresCatalog (execEncBuild command payload cap) := by
  intro cat s
  unfold execEncBuild
  split
  · rfl
  · split <;> rfl

theorem ignoresCatalog_execDecVerify (bytes : List Byte) (d : Decoded) : IgnoresCatalog (execDecVerify bytes d) := by
  intro cat s
  unfold execDecVerify
  split <;> rfl

/-! ## Every operation but the catalog's own -/

theorem ignoresCatalog_exec {i : Instr} (hi : readsCatalog i = false) : IgnoresCatalog (exec i) := by
  match i, hi with
  | .sDropClosed b, _ => exact ignoresCatalog_runSelected .dropClosed b
  | .sDropFault b, _ => exact ignoresCatalog_runSelected .dropFault b
  | .sHdrbuf b, _ => exact ignoresCatalog_runSelected .hdrBuf b
  | .sHdrend b, _ => exact ignoresCatalog_runSelected .hdrEnd b
  | .sPay b, _ => exact ignoresCatalog_runSelected .pay b
  | .sFck b, _ => exact ignoresCatalog_runSelected .fck b
  | .sFterm b, _ => exact ignoresCatalog_runSelected .fterm b
  | .rst, _ | .sClose, _ => exact ignoresCatalog_resetSession false
  | .sOpen, _ => exact ignoresCatalog_resetSession true
  | .sByte b, _ => exact ignoresCatalog_onTarget (f := fun cfg => byteStep cfg b) fun _ _ => rfl
  | .sDeliver chunk, _ => exact ignoresCatalog_deliver (bytes := fun _ => chunk) fun _ _ => rfl
  | .frameHeader c d l, _ => exact ignoresCatalog_deliver (bytes := fun cfg => wireHeader cfg c d l) fun _ _ => rfl
  | .frameFooter k, _ => exact ignoresCatalog_deliver (bytes := fun _ => wireFooter k) fun _ _ => rfl
  | .ckStep _ _, _ | .ckClr, _ | .decAtomic _, _ => exact fun _ _ => rfl
  | .ckCalc bytes n seed, _ => exact ignoresCatalog_execCkCalc bytes n seed
  | .encBuild command payload cap, _ => exact ignoresCatalog_execEncBuild command payload cap
  | .decVerify bytes d, _ => exact ignoresCatalog_execDecVerify bytes d

/-- Settles O60: the statement writes out what `withCatalog` and `IgnoresCatalog` say of each instruction. -/
theorem framerNeverReadsTheCatalog : Obligations.FramerNeverReadsTheCatalog := fun _ s cat hi =>
  ignoresCatalog_exec hi cat s

end Sys2Proof.Machine
end

section
/-! SUPPORT. The validity of the event a packet ends with (60_exceptions.md R214): what a completed selected operation leaves
at the addressed session, and the validity the reason bits give. -/

namespace Sys2Proof.Machine

/-- Where a SEL5 row's instruction completes, the addressed session is the one its operation gives. -/
theorem addressed_of_exec_selInstr {op : SelOp} {b : Byte} {s t : State} {x y : Session} (hx : Addressed s x)
    (h : exec (selInstr op b) s = .next t) (hy : Addressed t y) : y = runOp s.cfg op b x := by
  rw [exec_selInstr] at h
  obtain ⟨x', hx', -, rfl⟩ := runSelected_eq_next.1 h
  obtain rfl : x = x' := Option.some.inj (hx.symm.trans hx')
  exact Option.some.inj (hy.symm.trans (addressed_putSession hx _))

/-- A footer REJECT never has reason bit 2, and bit 0 decides whatever bit 1 is: the error detected first wins. -/
theorem validityOf_reject_footerReason (termBad ckBad : Bool) (m : Half) (c d : Byte) (l : Half) :
    validityOf (.reject (footerReason termBad ckBad) m c d l) =
      some (if ckBad = true then .checksumMismatch else .terminatorMismatch) := by
  cases termBad <;> cases ckBad <;> rfl

theorem validityOf_footerEvent (b : Byte) (r : Regs) :
    validityOf (footerEvent b r) =
      some (if r.ckBad = true then .checksumMismatch else if b ≠ 0xFF then .terminatorMismatch else .wellFormed) := by
  unfold footerEvent
  split
  · next good =>
    obtain ⟨ck_good, rfl⟩ := good
    simp [validityOf, ck_good, terminator]
  · next bad =>
    rw [validityOf_reject_footerReason]
    cases hck : r.ckBad with
    | true => rfl
    | false =>
      have term_bad : b ≠ 0xFF := fun hb => bad ⟨hck, hb⟩
      exact congrArg some (if_pos term_bad).symm

/-- Settles O36: the one event S.FTERM emits is `footerEvent`, and S.HDREND's on a wrong magic has reason bit 2. -/
theorem validityIsTheFirstErrorFound : Obligations.ValidityIsTheFirstErrorFound := by
  refine ⟨fun s t x y b hx h hy => ?_, fun s t x y b hx h hy hm => ?_⟩
  · obtain rfl := addressed_of_exec_selInstr (op := .fterm) hx h hy
    exact ⟨footerEvent b x.regs, rfl, validityOf_footerEvent b x.regs⟩
  · obtain rfl := addressed_of_exec_selInstr (op := .hdrEnd) hx h hy
    refine ⟨errorEvent (.magicMismatch (completedHeader b x.regs)), ?_, rfl⟩
    exact congrArg Session.sink (endHeader_of_mismatch hm)

end Sys2Proof.Machine
end

section
/-! SUPPORT. RST (70_reset_and_hazards.md R240, R241): the reset values register by register, and what RST answers. -/

namespace Sys2Proof.Machine

/-- The table of R240, one value for each register. -/
theorem regs_reset_eq_values :
    Regs.reset =
      { isOpen := false, fault := false, state := .awaitingHeader, hdrBuf := #v[0, 0, 0, 0, 0, 0], hdrCnt := 0,
        hdr := { magic := 0, command := 0, direction := 0, payloadLength := 0 }, remPayload := 0, remFooter := 0,
        cksum := 0, ckBad := false } := rfl

/-- RST resets the addressed session; that is S.CLOSE's effect (R241). -/
theorem exec_rst_addressed {s : State} {x : Session} (hx : Addressed s x) :
    exec .rst s = .next (putSession s (resetSession false x)) :=
  onTarget_addressed hx _

/-- Settles O7: RST is `resetSession` on the addressed session, and the registers that writes hold R240's values. -/
theorem rstGivesEveryRegisterItsResetValue : Obligations.RstGivesEveryRegisterItsResetValue := by
  intro s x hx
  rw [exec_rst_addressed hx, resetSession, regs_reset_eq_values]

end Sys2Proof.Machine
end

section
/-! SUPPORT. Encoding: the two bytes of a 16-bit field, a header and its bytes, and the catalog as a one-to-one table from
entries to command bytes (30_encoding.md R82, R83, R90; 43_command_catalog.md R191, R192). -/

namespace Sys2Proof.Machine

/-! ## The bytes of a field and of a header -/

/-- The byte sent first has weight 1 and the byte sent second weight 256 (R82). -/
theorem joinBytes_toNat (hi lo : Byte) : (joinBytes hi lo).toNat = lo.toNat + 256 * hi.toNat := by
  rw [joinBytes, BitVec.toNat_append, ← Nat.shiftLeft_add_eq_or_of_lt lo.isLt, Nat.shiftLeft_eq]
  omega

@[simp] theorem loByte_joinBytes (hi lo : Byte) : loByte (joinBytes hi lo) = lo := by
  rw [loByte_eq_ofNat, joinBytes_toNat]
  bv_omega

@[simp] theorem hiByte_joinBytes (hi lo : Byte) : hiByte (joinBytes hi lo) = hi := by
  rw [hiByte_eq_ofNat, joinBytes_toNat]
  bv_omega

@[simp] theorem joinBytes_hiByte_loByte (w : Half) : joinBytes (hiByte w) (loByte w) = w := by
  apply BitVec.eq_of_toNat_eq
  rw [joinBytes_toNat, loByte_eq_ofNat, hiByte_eq_ofNat, BitVec.toNat_ofNat, BitVec.toNat_ofNat]
  have := w.isLt
  omega

/-- The same, as `parse_header` spells the concatenation. -/
theorem hiByte_append_loByte (w : Half) : hiByte w ++ loByte w = w := joinBytes_hiByte_loByte w

theorem headerBytes_parseHeader (b0 b1 b2 b3 b4 b5 : Byte) :
    headerBytes (parseHeader b0 b1 b2 b3 b4 b5) = [b0, b1, b2, b3, b4, b5] := by
  simp [headerBytes, parseHeader]

theorem parseHeader_of_bytes (h : Header) :
    parseHeader (loByte h.magic) (hiByte h.magic) h.command h.direction (loByte h.payloadLength) (hiByte h.payloadLength) =
      h := by
  simp [parseHeader]

/-- Settles O3: each direction is the round trip of the two 16-bit fields. -/
theorem headerParsingIsInverseToHeaderBytes : Obligations.HeaderParsingIsInverseToHeaderBytes :=
  ⟨fun b0 b1 b2 b3 b4 b5 =>
    ⟨joinBytes_toNat b1 b0, joinBytes_toNat b5 b4, headerBytes_parseHeader b0 b1 b2 b3 b4 b5⟩,
    fun h => ⟨_, _, _, _, _, _, rfl, parseHeader_of_bytes h⟩⟩

/-! ## The catalog as a table -/

theorem mem_catEntries (e : CatEntry) : e ∈ catEntries := by
  cases e <;> decide

/-- The command bytes of the eight entries. -/
def catBytes (cat : Catalog) : List Byte := catEntries.map (catValue cat)

theorem catBytes_nodup {cat : Catalog} (hwf : cat.wf = true) : (catBytes cat).Nodup := of_decide_eq_true hwf

/-- Distinct values name distinct entries (R192). -/
theorem catValue_injective {cat : Catalog} (hwf : cat.wf = true) : Function.Injective (catValue cat) := fun e e' h =>
  List.inj_on_of_nodup_map (catBytes_nodup hwf) (mem_catEntries e) (mem_catEntries e') h

/-- CMD8's mask keeps every bit. -/
@[simp] theorem byte_and_mask (c : Byte) : c &&& 255#8 = c := BitVec.and_allOnes

/-- The entry found has the byte for its value, whatever the catalog. -/
theorem eq_catValue_of_catEntryOf {cat : Catalog} {c : Byte} {e : CatEntry} (h : catEntryOf cat c = some e) :
    c = catValue cat e := by
  simpa using List.find?_some h

theorem catEntryOf_eq_none_iff {cat : Catalog} {c : Byte} : catEntryOf cat c = none ↔ c ∉ catBytes cat := by
  rw [catEntryOf, List.find?_eq_none]
  simp [catBytes, eq_comm (a := c)]

/-- Each entry's own byte finds that entry, since no other has its value (R192). -/
theorem catEntryOf_catValue {cat : Catalog} (hwf : cat.wf = true) (e : CatEntry) :
    catEntryOf cat (catValue cat e) = some e := by
  cases h : catEntryOf cat (catValue cat e) with
  | none => exact absurd (List.mem_map_of_mem (mem_catEntries e)) (catEntryOf_eq_none_iff.1 h)
  | some e' => rw [catValue_injective hwf (eq_catValue_of_catEntryOf h)]

/-! ## Decoding what was encoded -/

theorem decode_cmd8_catValue {cfg : Config} (hwf : cfg.wf = true) (e : CatEntry) :
    decode cfg (.cmd8 (catValue cfg.catalog e)) = .instr (catInstr e) := by
  simp only [decode, decodeCmd8, catEntryOf_catValue hwf e]

theorem decode_wire_header (cfg : Config) (b0 b1 b2 b3 b4 b5 : Byte) :
    decode cfg (.wire [b0, b1, b2, b3, b4, b5]) =
      .instr (if b1 ++ b0 = cfg.magic then .frameHeader b2 b3 (b5 ++ b4) else .sDeliver [b0, b1, b2, b3, b4, b5]) := rfl

theorem decode_encode_frameHeader (cfg : Config) (c d : Byte) (l : Half) :
    decode cfg (encode cfg (.frameHeader c d l)) = .instr (.frameHeader c d l) := by
  rw [encode, headerBytes, decode_wire_header, if_pos (hiByte_append_loByte cfg.magic), hiByte_append_loByte l]

/-- Settles O1: the header's fields come back from their bytes and the catalog's rows from their distinct values; every other
row's bits are fixed. -/
theorem decodeOfEncodeIsTheInstruction : Obligations.DecodeOfEncodeIsTheInstruction := by
  intro cfg hwf i
  match i with
  | .frameHeader c d l => exact decode_encode_frameHeader cfg c d l
  | .printData => exact decode_cmd8_catValue hwf .printData
  | .status => exact decode_cmd8_catValue hwf .status
  | .setHeat => exact decode_cmd8_catValue hwf .setHeat
  | .printCtrl => exact decode_cmd8_catValue hwf .printCtrl
  | .setEnergy => exact decode_cmd8_catValue hwf .setEnergy
  | .draftMode => exact decode_cmd8_catValue hwf .draftMode
  | .feedSpeed => exact decode_cmd8_catValue hwf .feedSpeed
  | .printDataCompressed => exact decode_cmd8_catValue hwf .printDataCompressed
  | .frameFooter _ | .sDropClosed _ | .sDropFault _ | .sHdrbuf _ | .sHdrend _ | .sPay _ | .sFck _ | .sFterm _ | .rst | .sOpen
  | .sClose | .sDeliver _ | .sByte _ | .ckStep _ _ | .ckCalc _ _ _ | .ckClr | .encBuild _ _ _ | .decAtomic _ | .decVerify _ _
  | .catName _ => rfl

/-- Settles O2: thirteen closed requests, each decoded by evaluation. -/
theorem tableWordsDecodeToTheirRows : Obligations.TableWordsDecodeToTheirRows := by
  unfold Obligations.TableWordsDecodeToTheirRows
  decide

/-! ## CAT.NAME and its rows -/

/-- What trying the entries of a list in order answers (R191). -/
def firstName (cat : Catalog) (c : Byte) (entries : List CatEntry) : CatName :=
  (entries.find? fun e => c &&& 0xFF == catValue cat e).elim .unknown .known

theorem firstName_nil (cat : Catalog) (c : Byte) : firstName cat c [] = .unknown := rfl

theorem firstName_cons (cat : Catalog) (c : Byte) (e : CatEntry) (entries : List CatEntry) :
    firstName cat c (e :: entries) = if c = catValue cat e then .known e else firstName cat c entries := by
  by_cases h : c = catValue cat e <;> simp [firstName, h]

theorem catNameOf_eq_firstName (cat : Catalog) (c : Byte) : catNameOf cat c = firstName cat c catEntries := by
  change catNameOf cat c = (catEntryOf cat c).elim .unknown .known
  unfold catNameOf
  cases catEntryOf cat c <;> rfl

theorem catNameOf_catValue {cat : Catalog} (hwf : cat.wf = true) (e : CatEntry) :
    catNameOf cat (catValue cat e) = .known e := by
  simp only [catNameOf, catEntryOf_catValue hwf e]

/-- A byte is unknown exactly when no entry has it (R191). -/
theorem catNameOf_eq_unknown_iff {cat : Catalog} {c : Byte} : catNameOf cat c = .unknown ↔ c ∉ catBytes cat := by
  rw [← catEntryOf_eq_none_iff]
  unfold catNameOf
  cases catEntryOf cat c <;> simp

theorem exec_catName (c : Byte) (s : State) :
    exec (.catName c) s = .next { s with ret := some (.name (catNameOf s.cfg.catalog c)) } := rfl

/-- A catalog row's instruction looks its entry's value up. -/
theorem exec_catInstr (e : CatEntry) (s : State) :
    exec (catInstr e) s = exec (.catName (catValue s.cfg.catalog e)) s := by
  cases e <;> rfl

/-- Every command byte runs as CAT.NAME of it, one without an entry included (log entry 19). -/
theorem exec_decodeCmd8 (c : Byte) (s : State) : exec (decodeCmd8 s.cfg c) s = exec (.catName c) s := by
  unfold decodeCmd8
  split
  · next e found => rw [exec_catInstr, ← eq_catValue_of_catEntryOf found]
  · rfl

/-- Settles O57: CAT.NAME tries the entries in the order of `catEntries`, and a CMD8 request runs as CAT.NAME of its byte. -/
theorem catNameLooksUpTheByte : Obligations.CatNameLooksUpTheByte := by
  intro s c
  refine ⟨?_, decodeCmd8 s.cfg c, rfl, exec_decodeCmd8 c s⟩
  rw [exec_catName, catNameOf_eq_firstName]
  simp only [catEntries, firstName_cons, firstName_nil]
  rfl

/-- Settles O58: an entry's row looks up that entry's value, which finds the entry. -/
theorem catalogRowsReturnTheirNames : Obligations.CatalogRowsReturnTheirNames := fun s e hwf => by
  rw [exec_catInstr, exec_catName, catNameOf_catValue hwf]

/-! ## How many bytes are unknown -/

/-- The 256 byte values. -/
def allBytes : List Byte := (List.range 256).map (BitVec.ofNat 8)

theorem mem_allBytes (c : Byte) : c ∈ allBytes :=
  List.mem_map.2 ⟨c.toNat, List.mem_range.2 c.isLt, by simp⟩

theorem allBytes_nodup : allBytes.Nodup := by
  refine List.Nodup.map_on ?_ List.nodup_range
  intro a ha b hb h
  rw [List.mem_range] at ha hb
  have := congrArg BitVec.toNat h
  rwa [BitVec.toNat_ofNat, BitVec.toNat_ofNat, Nat.mod_eq_of_lt ha, Nat.mod_eq_of_lt hb] at this

/-- The known bytes are the eight values of the catalog, each once. -/
theorem known_perm_catBytes {cat : Catalog} (hwf : cat.wf = true) :
    (allBytes.filter fun c => !(catNameOf cat c == .unknown)).Perm (catBytes cat) := by
  refine (List.perm_ext_iff_of_nodup (allBytes_nodup.filter _) (catBytes_nodup hwf)).2 fun c => ?_
  simp [List.mem_filter, mem_allBytes, catNameOf_eq_unknown_iff]

/-- Settles O59: of the 256 bytes, the known ones are the eight distinct values. -/
theorem mostCommandsAreUnknown : Obligations.MostCommandsAreUnknown := by
  intro cat hwf
  have known : (allBytes.filter fun c => !(catNameOf cat c == .unknown)).length = 8 := (known_perm_catBytes hwf).length_eq
  have total : allBytes.length = 256 := by simp [allBytes]
  have split := List.length_eq_length_filter_add (l := allBytes) fun c => catNameOf cat c == .unknown
  have unknown : (allBytes.filter fun c => catNameOf cat c == .unknown).length = 248 := by omega
  rwa [allBytes, List.filter_map, List.length_map] at unknown

end Sys2Proof.Machine
end

section
/-! SUPPORT. One step of the machine and one instruction in it: a step idles, stops at a selector of no row, or runs an
instruction; an instruction is an operation on the addressed session or a call (00_scope.md R7, 60_exceptions.md R228). -/

namespace Sys2Proof.Machine

/-! ## The step -/

section
variable {s : State} {r : Request} {rest : List Request} (hp : s.pending = r :: rest)
include hp

theorem step_of_decode_instr {i : Instr} (hd : decode s.cfg r.word = .instr i) :
    step s = exec i { s with pending := rest, target := r.session } := by
  simp only [step, fetch, hp, hd]

theorem step_of_decode_noEvent (hd : decode s.cfg r.word = .reject .noEvent) :
    step s = .next { s with pending := rest } := by
  simp only [step, fetch, hp, hd]

theorem step_of_decode_noSelectorRow (hd : decode s.cfg r.word = .reject .noSelectorRow) :
    step s = .fault .noSelectorRow := by
  simp only [step, fetch, hp, hd]

end

theorem step_of_no_request {s : State} (hp : s.pending = []) : step s = .next s := by
  simp only [step, fetch, hp]

/-- Everything a step can answer. -/
theorem step_cases (s : State) :
    (∃ rest, step s = .next { s with pending := rest }) ∨ step s = .fault .noSelectorRow ∨
      ∃ i rest k, step s = exec i { s with pending := rest, target := k } := by
  match hp : s.pending with
  | [] => exact .inl ⟨s.pending, step_of_no_request hp⟩
  | r :: rest =>
    match hd : decode s.cfg r.word with
    | .instr i => exact .inr (.inr ⟨i, rest, r.session, step_of_decode_instr hp hd⟩)
    | .reject .noEvent => exact .inl ⟨rest, step_of_decode_noEvent hp hd⟩
    | .reject .noSelectorRow => exact .inr (.inl (step_of_decode_noSelectorRow hp hd))

/-- Settles O4: the two rules for a request that is an instruction and for a selector of no row. -/
theorem stepRunsTheDecodedInstruction : Obligations.StepRunsTheDecodedInstruction := fun _ _ _ hp =>
  ⟨fun _ hd => step_of_decode_instr hp hd, fun hd => step_of_decode_noSelectorRow hp hd⟩

/-- Settles O5: port vector 0000 is no row of R106. -/
theorem noInputEventNoStep : Obligations.NoInputEventNoStep :=
  ⟨fun _ hp => step_of_no_request hp, fun _ _ _ _ hp => step_of_decode_noEvent hp rfl⟩

/-- Settles O6: each of the five is an operation on the addressed session. -/
theorem missingSessionFaults : Obligations.MissingSessionFaults := fun _ _ _ h =>
  ⟨onTarget_none h _, onTarget_none h _, onTarget_none h _, onTarget_none h _, onTarget_none h _⟩

/-! ## A request at the ports -/

/-- The instruction of a port event (R106). -/
def portInstr (data : Byte) : PortEvent → Instr
  | .rst => .rst
  | .close => .sClose
  | .opened => .sOpen
  | .byte => .sByte data

theorem decodeEvent_of_event {v : BitVec 4} {ev : PortEvent} (h : decodePorts v = some ev) (data : Byte) :
    decodeEvent v data = .instr (portInstr data ev) := by
  rw [decodeEvent, h]
  cases ev <;> rfl

/-- Only the vector 0000 carries no event (R47). -/
theorem eq_zero_of_decodePorts_eq_none : ∀ v : BitVec 4, decodePorts v = none → v = 0 := by decide

/-- The instruction of a cycle's event does to the addressed session what the cycle does to it. -/
theorem exec_portInstr {p : InPorts} {ev : PortEvent} (h : decodePorts (in4 p) = some ev) (s : State) :
    exec (portInstr p.inData ev) s = onTarget s (cycleSession s.cfg p) := by
  have onTarget_congr (f : Session → Host.Outcome Session Fault Refusal) (hf : ∀ x, f x = cycleSession s.cfg p x) :
      onTarget s f = onTarget s (cycleSession s.cfg p) := by rw [funext hf]
  cases ev with
  | rst => exact onTarget_congr (fun x => .next (resetSession false x)) fun x => by simp only [cycleSession, h]
  | close => exact onTarget_congr (fun x => .next (resetSession false x)) fun x => by simp only [cycleSession, h]
  | opened => exact onTarget_congr (fun x => .next (resetSession true x)) fun x => by simp only [cycleSession, h]
  | byte => exact onTarget_congr (byteStep s.cfg p.inData) fun x => by simp only [cycleSession, h]

/-- Settles O43: the request decodes to its event's instruction, and the addressed session gets the cycle's session step. -/
theorem portRequestIsOneCycle : Obligations.PortRequestIsOneCycle := by
  intro s k x p rest hp hx hin
  obtain ⟨ev, event⟩ := Option.ne_none_iff_exists'.1 (mt (eq_zero_of_decodePorts_eq_none (in4 p)) hin)
  have addressed : Addressed { s with pending := rest, target := k } x := hx
  rw [step_of_decode_instr hp (decodeEvent_of_event event p.inData), exec_portInstr event, onTarget_addressed addressed,
    cycle, andThen_assoc]
  rfl

/-! ## An instruction is an operation on the addressed session, or a call -/

/-- A SEL5 operation on one session: it runs where it is selected (R98). -/
def selectedStep (op : SelOp) (b : Byte) (cfg : Config) (x : Session) : Host.Outcome Session Fault Refusal :=
  match selectOp x.regs with
  | none => .fault .stuck
  | some op' => if op' = op then .next (runOp cfg op b x) else .refused (.notSelected op)

theorem runSelected_eq_onTarget (op : SelOp) (b : Byte) (s : State) :
    runSelected op b s = onTarget s (selectedStep op b s.cfg) := rfl

/-- What is no call reads the configuration and the addressed session, and nothing else (R228). -/
theorem exec_eq_onTarget {i : Instr} (hi : isCall i = false) :
    ∃ f : Config → Session → Host.Outcome Session Fault Refusal, ∀ s, exec i s = onTarget s (f s.cfg) := by
  match i, hi with
  | .frameHeader c d l, _ => exact ⟨fun cfg => deliver cfg (wireHeader cfg c d l), fun _ => rfl⟩
  | .frameFooter k, _ => exact ⟨fun cfg => deliver cfg (wireFooter k), fun _ => rfl⟩
  | .sDropClosed b, _ => exact ⟨selectedStep .dropClosed b, fun _ => rfl⟩
  | .sDropFault b, _ => exact ⟨selectedStep .dropFault b, fun _ => rfl⟩
  | .sHdrbuf b, _ => exact ⟨selectedStep .hdrBuf b, fun _ => rfl⟩
  | .sHdrend b, _ => exact ⟨selectedStep .hdrEnd b, fun _ => rfl⟩
  | .sPay b, _ => exact ⟨selectedStep .pay b, fun _ => rfl⟩
  | .sFck b, _ => exact ⟨selectedStep .fck b, fun _ => rfl⟩
  | .sFterm b, _ => exact ⟨selectedStep .fterm b, fun _ => rfl⟩
  | .rst, _ | .sClose, _ => exact ⟨fun _ x => .next (resetSession false x), fun _ => rfl⟩
  | .sOpen, _ => exact ⟨fun _ x => .next (resetSession true x), fun _ => rfl⟩
  | .sDeliver chunk, _ => exact ⟨fun cfg => deliver cfg chunk, fun _ => rfl⟩
  | .sByte b, _ => exact ⟨fun cfg => byteStep cfg b, fun _ => rfl⟩

/-- A call's preconditions speak of its operands alone, so that it completes in every state or in none; and it writes DST by
one list of bytes, which only ENC.BUILD's is not empty. -/
theorem exec_call_completes {i : Instr} {s t : State} (hi : isCall i = true) (h : exec i s = .next t) :
    (∃ bytes, t.dst = memWriteList s.dst 0 bytes) ∧ ∀ s', ∃ t', exec i s' = .next t' := by
  match i, hi with
  | .ckStep _ _, _ | .ckClr, _ | .decAtomic _, _ | .catName _, _ | .printData, _ | .status, _ | .setHeat, _
  | .printCtrl, _ | .setEnergy, _ | .draftMode, _ | .feedSpeed, _ | .printDataCompressed, _ =>
    obtain rfl := giveRet_eq_next.1 h
    exact ⟨⟨[], rfl⟩, fun s' => ⟨_, rfl⟩⟩
  | .ckCalc bytes n seed, _ =>
    by_cases inside : n ≤ bytes.length
    · rw [exec_ckCalc_of_le inside] at h
      obtain rfl := Host.Outcome.next.inj h
      exact ⟨⟨[], rfl⟩, fun s' => ⟨_, exec_ckCalc_of_le inside seed s'⟩⟩
    · have refused : exec (.ckCalc bytes n seed) s = .refused .readsBeyondSource := if_neg inside
      rw [refused] at h
      cases h
  | .encBuild _ _ _, _ =>
    obtain ⟨fits, room, rfl⟩ := exec_encBuild_eq_next.1 h
    exact ⟨⟨_, rfl⟩, fun s' => ⟨_, exec_encBuild_eq_next.2 ⟨fits, room, rfl⟩⟩⟩
  | .decVerify _ _, _ =>
    obtain ⟨inside, rfl⟩ := exec_decVerify_eq_next.1 h
    exact ⟨⟨[], rfl⟩, fun s' => ⟨_, exec_decVerify_eq_next.2 ⟨inside, rfl⟩⟩⟩

/-! ## What no instruction writes -/

theorem exec_call_sessions {i : Instr} {s t : State} (hi : isCall i = true) (h : exec i s = .next t) :
    t.sessions = s.sessions := by
  rw [exec_call_frame hi h]

/-- The frame of an instruction: the configuration, the pending input, the address, the number of sessions and every other
session stay. -/
theorem exec_frame {i : Instr} {s t : State} (h : exec i s = .next t) :
    t.cfg = s.cfg ∧ t.pending = s.pending ∧ t.target = s.target ∧ t.sessions.length = s.sessions.length ∧
      ∀ k, k ≠ s.target → t.sessions[k]? = s.sessions[k]? := by
  cases call : isCall i with
  | true =>
    rw [exec_call_frame call h]
    exact ⟨rfl, rfl, rfl, rfl, fun _ _ => rfl⟩
  | false =>
    obtain ⟨f, hf⟩ := exec_eq_onTarget call
    rw [hf] at h
    obtain ⟨x, y, -, -, rfl⟩ := onTarget_eq_next.1 h
    exact ⟨rfl, rfl, rfl, List.length_set, fun k hk => putSession_other s y hk⟩

/-- An instruction that completes does so wherever the configuration and the addressed session are the same, and leaves the
same addressed session. -/
theorem exec_congr {i : Instr} {s s' t : State} {x : Session} (h : exec i s = .next t) (hx : Addressed s x)
    (hx' : Addressed s' x) (hcfg : s'.cfg = s.cfg) :
    ∃ t', exec i s' = .next t' ∧ t'.sessions[s'.target]? = t.sessions[s.target]? := by
  cases call : isCall i with
  | true =>
    obtain ⟨t', completes⟩ := (exec_call_completes call h).2 s'
    refine ⟨t', completes, ?_⟩
    rw [exec_call_sessions call completes, exec_call_sessions call h]
    exact hx'.trans hx.symm
  | false =>
    obtain ⟨f, hf⟩ := exec_eq_onTarget call
    rw [hf] at h
    obtain ⟨x₀, y, hx₀, hy, rfl⟩ := onTarget_eq_next.1 h
    obtain rfl : x = x₀ := Option.some.inj (hx.symm.trans hx₀)
    refine ⟨putSession s' y, ?_, (addressed_putSession hx' y).trans (addressed_putSession hx y).symm⟩
    rw [hf, hcfg]
    exact onTarget_eq_next.2 ⟨x, y, hx', hy, rfl⟩

/-- Settles O38: the frame of an instruction, and that it reads the configuration and the addressed session alone. -/
theorem sessionsAreIndependent : Obligations.SessionsAreIndependent := by
  intro i s t h
  obtain ⟨-, -, -, length, others⟩ := exec_frame h
  exact ⟨⟨length, others⟩, fun s' x hx hx' hcfg => exec_congr h hx hx' hcfg⟩

/-- Settles O40: a step that idles keeps both, and one that runs an instruction has its frame. -/
theorem configurationIsNeverWritten : Obligations.ConfigurationIsNeverWritten := by
  refine ⟨fun s t h => ?_, fun i s t hi h => ?_⟩
  · obtain ⟨rest, idle⟩ | stop | ⟨i, rest, k, run⟩ := step_cases s
    · obtain rfl := Host.Outcome.next.inj (idle.symm.trans h)
      exact ⟨rfl, rfl⟩
    · cases stop.symm.trans h
    · obtain ⟨config, -, -, length, -⟩ := exec_frame (run.symm.trans h)
      exact ⟨config, length⟩
  · rw [exec_call_frame hi h]
    exact ⟨rfl, rfl⟩

end Sys2Proof.Machine
end

section
/-! SUPPORT. The invariants of 10_state.md R32 on one session: each of the seven operations keeps them where it is selected,
and a reset establishes them; within them every byte selects an operation. -/

namespace Sys2Proof.Machine

/-! ## Where an operation is selected -/

/-- The positions at which a byte selects an operation (R98, R154). -/
def SelectedAt : SelOp → Regs → Prop
  | .dropClosed, r => r.isOpen = false
  | .dropFault, r => r.isOpen = true ∧ r.fault = true
  | .hdrBuf, r => Parsing r ∧ r.state = .awaitingHeader ∧ r.hdrCnt ≠ 5
  | .hdrEnd, r => Parsing r ∧ r.state = .awaitingHeader ∧ r.hdrCnt = 5
  | .pay, r => Parsing r ∧ r.state = .awaitingPayload ∧ r.remPayload ≠ 0
  | .fck, r => Parsing r ∧ r.state = .awaitingFooter ∧ r.remFooter = 2
  | .fterm, r => Parsing r ∧ r.state = .awaitingFooter ∧ r.remFooter = 1

theorem selectOp_position {op : SelOp} {r : Regs} (h : selectOp r = some op) : SelectedAt op r := by
  rw [selectOp_eq] at h
  split at h
  · next closed => cases h; exact closed
  next opened =>
  have ho : r.isOpen = true := Bool.eq_true_of_not_eq_false opened
  split at h
  · next faulted => cases h; exact ⟨ho, faulted⟩
  next noFault =>
  have parsing : Parsing r := ⟨ho, Bool.eq_false_of_not_eq_true noFault⟩
  split at h
  · next hs =>
    split at h
    · next last => cases h; exact ⟨parsing, hs, last⟩
    · next below => cases h; exact ⟨parsing, hs, below⟩
  · next hs =>
    split at h
    · cases h
    · next due => cases h; exact ⟨parsing, hs, due⟩
  · next hs =>
    split at h
    · cases h
    next some_due =>
    split at h
    · next one => cases h; exact ⟨parsing, hs, one⟩
    · next not_one => cases h; exact ⟨parsing, hs, by omega⟩

/-- Within the invariants every byte selects an operation: U5's positions are excluded (R32 items 3 and 4). -/
theorem selectOp_ne_none_of_inv {cfg : Config} {r : Regs} (h : Regs.Inv cfg r) : selectOp r ≠ none := by
  rw [selectOp_eq]
  split
  · simp
  split
  · simp
  split
  · split <;> simp
  · next hs =>
    obtain ⟨-, due, -⟩ := h.payload hs
    have : r.remPayload ≠ 0 := by bv_omega
    rw [if_neg this]
    simp
  · next hs =>
    obtain ⟨-, -, due, -⟩ := h.footer hs
    have : r.remFooter ≠ 0 := by omega
    rw [if_neg this]
    split <;> simp

/-! ## The payload held -/

/-- One more event (R44). -/
theorem heldPayload_emit (e : OutEvent) {x : Session} (hm : x.sinkMark ≤ x.sink.length) :
    heldPayload (emit e x) = collectPayload (heldPayload x) e := by
  simp [heldPayload, sessionTrace, payloadSince, List.drop_append_of_le_length hm]


/-- The payload held is read off the trace, not off the registers. -/
@[simp] theorem heldPayload_with_regs (x : Session) (r : Regs) : heldPayload { x with regs := r } = heldPayload x := rfl

@[simp] theorem heldPayload_resetSession (o : Bool) (x : Session) : heldPayload (resetSession o x) = [] := by
  simp [heldPayload, sessionTrace, payloadSince]

theorem ckFold_append (k : CkStep) (a b : List Byte) (seed : Byte) :
    ckFold k (a ++ b) seed = ckFold k b (ckFold k a seed) :=
  List.foldl_append

/-! ## The registers after each operation -/

/-- A header is due: items 2 and 5 are all that is asked of an open session there. -/
theorem regs_inv_of_header {cfg : Config} {r : Regs} (ho : r.isOpen = true) (hs : r.state = .awaitingHeader)
    (header : r.remPayload = 0 ∧ r.remFooter = 0 ∧ r.ckBad = false)
    (faulted : r.fault = true → r.hdrCnt = 0 ∧ r.hdr.magic ≠ cfg.magic) : Regs.Inv cfg r where
  closed hc := by simp [ho] at hc
  header _ := header
  payload hp := by simp [hs] at hp
  footer hf := by simp [hs] at hf
  faulted hf := ⟨ho, hs, faulted hf⟩

/-- Payload is due: item 3 is all that is asked of a session in mode OPEN there. -/
theorem regs_inv_of_payload {cfg : Config} {r : Regs} (hp : Parsing r) (hs : r.state = .awaitingPayload)
    (hcnt : r.hdrCnt = 0) (due : 1 ≤ r.remPayload.toNat) (within : r.remPayload.toNat ≤ r.hdr.payloadLength.toNat)
    (hfoot : r.remFooter = 2) (hbad : r.ckBad = false) (hmagic : r.hdr.magic = cfg.magic) : Regs.Inv cfg r where
  closed hc := by simp [hp.1] at hc
  header hh := by simp [hs] at hh
  payload _ := ⟨hcnt, due, within, hfoot, hbad, hmagic, hp.2⟩
  footer hf := by simp [hs] at hf
  faulted hf := by simp [hp.2] at hf

/-- A footer is due: item 4 is all that is asked of a session in mode OPEN there. -/
theorem regs_inv_of_footer {cfg : Config} {r : Regs} (hp : Parsing r) (hs : r.state = .awaitingFooter)
    (hcnt : r.hdrCnt = 0) (hrem : r.remPayload = 0) (hfoot : r.remFooter = 1 ∨ r.remFooter = 2)
    (hmagic : r.hdr.magic = cfg.magic) (hbad : r.ckBad = true → r.remFooter = 1) : Regs.Inv cfg r where
  closed hc := by simp [hp.1] at hc
  header hh := by simp [hs] at hh
  payload hq := by simp [hs] at hq
  footer _ := ⟨hcnt, hrem, hfoot, hmagic, hp.2, hbad⟩
  faulted hf := by simp [hp.2] at hf

theorem acceptHeader_state_ne_header (h : Header) (r : Regs) : (acceptHeader h r).state ≠ .awaitingHeader := by
  simp only [acceptHeader, ckClear_state]
  split <;> simp

/-- An accepted header leaves its payload due, or the footer where the payload is empty (R158, R165). -/
theorem acceptHeader_inv {cfg : Config} {h : Header} {r : Regs} (hp : Parsing r) (hcnt : r.hdrCnt = 0) (hh : r.hdr = h)
    (magic : h.magic = cfg.magic) : Regs.Inv cfg (acceptHeader h r) := by
  subst hh
  by_cases empty : r.hdr.payloadLength = 0
  · exact regs_inv_of_footer hp (if_pos empty) hcnt empty (.inr rfl) magic nofun
  · have due : 1 ≤ r.hdr.payloadLength.toNat := by bv_omega
    exact regs_inv_of_payload hp (if_neg empty) hcnt due le_rfl rfl rfl magic

/-! ## The session after each operation -/

/-- At a header nothing is asked of the checksum, and the payload held must be empty. -/
theorem session_inv_of_header {cfg : Config} {x : Session} (hr : Regs.Inv cfg x.regs) (hs : x.regs.state = .awaitingHeader)
    (hm : x.sinkMark ≤ x.sink.length) (held : heldPayload x = []) : Session.Inv cfg x where
  regs := hr
  mark := hm
  between _ := held
  consumed h := absurd hs h
  checksum h := absurd hs h

/-- Inside a packet the payload held has the length and the checksum of item 6. -/
theorem session_inv_of_packet {cfg : Config} {x : Session} (hr : Regs.Inv cfg x.regs) (hs : x.regs.state ≠ .awaitingHeader)
    (hm : x.sinkMark ≤ x.sink.length)
    (consumed : (heldPayload x).length = x.regs.hdr.payloadLength.toNat - x.regs.remPayload.toNat)
    (checksum : x.regs.cksum = ckFold cfg.ckStep (heldPayload x) ckSeed0) : Session.Inv cfg x where
  regs := hr
  mark := hm
  between h := absurd h hs
  consumed _ := consumed
  checksum _ := checksum

theorem dropClosed_inv {cfg : Config} {x : Session} (h : Session.Inv cfg x) : Session.Inv cfg (dropClosed x) :=
  ⟨h.regs, h.mark, h.between, h.consumed, h.checksum⟩

theorem emit_mark {x : Session} (e : OutEvent) (hm : x.sinkMark ≤ x.sink.length) :
    (emit e x).sinkMark ≤ (emit e x).sink.length := by
  simp; omega

section
variable {cfg : Config} {x : Session} (h : Session.Inv cfg x) (b : Byte)
include h

theorem bufferHeaderByte_inv (hp : SelectedAt .hdrBuf x.regs) : Session.Inv cfg (bufferHeaderByte b x) := by
  obtain ⟨⟨ho, hf⟩, hs, -⟩ := hp
  refine session_inv_of_header ?_ hs h.mark (h.between hs)
  exact regs_inv_of_header ho hs (h.regs.header hs) fun faulted => absurd (hf.symm.trans faulted) Bool.false_ne_true

theorem endHeader_inv (hp : SelectedAt .hdrEnd x.regs) : Session.Inv cfg (endHeader cfg b x) := by
  obtain ⟨parsing, hs, -⟩ := hp
  have held := h.between hs
  by_cases magic : (completedHeader b x.regs).magic = cfg.magic
  · rw [endHeader_of_match magic]
    refine session_inv_of_packet (acceptHeader_inv parsing rfl rfl magic) (acceptHeader_state_ne_header _ _) h.mark ?_ ?_
    · simp [held, acceptHeader, storeHeader]
    · simp [held, acceptHeader]
  · rw [endHeader_of_mismatch magic]
    refine session_inv_of_header ?_ hs (emit_mark _ h.mark) (heldPayload_emit _ h.mark)
    exact regs_inv_of_header parsing.1 hs (h.regs.header hs) fun _ => ⟨rfl, magic⟩

theorem payloadByte_inv (hp : SelectedAt .pay x.regs) : Session.Inv cfg (payloadByte cfg b x) := by
  obtain ⟨parsing, hs, -⟩ := hp
  obtain ⟨hcnt, due, within, hfoot, hbad, hmagic, -⟩ := h.regs.payload hs
  have inside : x.regs.state ≠ .awaitingHeader := by simp [hs]
  have held : heldPayload (payloadByte cfg b x) = heldPayload x ++ [b] := heldPayload_emit _ h.mark
  have rem : (x.regs.remPayload - 1).toNat = x.regs.remPayload.toNat - 1 := by bv_omega
  have consumed : (heldPayload (payloadByte cfg b x)).length =
      x.regs.hdr.payloadLength.toNat - (x.regs.remPayload - 1).toNat := by
    rw [held, List.length_append, h.consumed inside, rem, List.length_singleton]
    omega
  have checksum : ckApply cfg.ckStep x.regs.cksum b = ckFold cfg.ckStep (heldPayload (payloadByte cfg b x)) ckSeed0 := by
    rw [held, ckFold_append, ← h.checksum inside]
    rfl
  by_cases last : x.regs.remPayload = 1
  · have footer : (payloadByte cfg b x).regs.state = .awaitingFooter := if_pos last
    have none_left : x.regs.remPayload - 1 = 0 := by bv_omega
    refine session_inv_of_packet ?_ (by simp [footer]) (emit_mark _ h.mark) consumed checksum
    exact regs_inv_of_footer parsing footer hcnt none_left (.inr hfoot) hmagic fun bad =>
      absurd (hbad.symm.trans bad) Bool.false_ne_true
  · have payload : (payloadByte cfg b x).regs.state = .awaitingPayload := (if_neg last).trans hs
    refine session_inv_of_packet ?_ (by simp [payload]) (emit_mark _ h.mark) consumed checksum
    refine regs_inv_of_payload parsing payload hcnt ?_ ?_ hfoot hbad hmagic
    · change 1 ≤ (x.regs.remPayload - 1).toNat
      bv_omega
    · change (x.regs.remPayload - 1).toNat ≤ x.regs.hdr.payloadLength.toNat
      omega

theorem footerChecksum_inv (hp : SelectedAt .fck x.regs) : Session.Inv cfg (footerChecksum b x) := by
  obtain ⟨parsing, hs, -⟩ := hp
  obtain ⟨hcnt, hrem, -, hmagic, -, -⟩ := h.regs.footer hs
  have inside : x.regs.state ≠ .awaitingHeader := by simp [hs]
  unfold footerChecksum
  split
  · refine session_inv_of_packet ?_ inside h.mark (h.consumed inside) (h.checksum inside)
    exact regs_inv_of_footer parsing hs hcnt hrem (.inl rfl) hmagic fun _ => rfl
  · have held (r : Regs) (c : Byte) : heldPayload (raise (.checksumMismatch c b) { x with regs := r }) = heldPayload x :=
      heldPayload_emit _ h.mark
    refine session_inv_of_packet ?_ inside (emit_mark _ h.mark) ?_ ?_
    · exact regs_inv_of_footer parsing hs hcnt hrem (.inl rfl) hmagic fun _ => rfl
    · rw [held]
      exact h.consumed inside
    · rw [held]
      exact h.checksum inside

/-- S.FTERM's event ends the packet, so that nothing is held after it. -/
theorem heldPayload_footerTerminator : heldPayload (footerTerminator b x) = [] := by
  refine (heldPayload_emit (footerEvent b x.regs) h.mark).trans ?_
  unfold footerEvent
  split <;> rfl

theorem footerTerminator_inv (hp : SelectedAt .fterm x.regs) : Session.Inv cfg (footerTerminator b x) := by
  obtain ⟨⟨ho, hf⟩, hs, -⟩ := hp
  obtain ⟨-, hrem, -⟩ := h.regs.footer hs
  refine session_inv_of_header ?_ rfl (emit_mark _ h.mark) (heldPayload_footerTerminator h b)
  exact regs_inv_of_header ho rfl ⟨hrem, rfl, rfl⟩ fun faulted => absurd (hf.symm.trans faulted) Bool.false_ne_true

/-- The selected operation keeps the invariants. -/
theorem runOp_inv {op : SelOp} (hsel : selectOp x.regs = some op) : Session.Inv cfg (runOp cfg op b x) := by
  have position := selectOp_position hsel
  cases op with
  | dropClosed => exact dropClosed_inv h
  | dropFault => exact h
  | hdrBuf => exact bufferHeaderByte_inv h b position
  | hdrEnd => exact endHeader_inv h b position
  | pay => exact payloadByte_inv h b position
  | fck => exact footerChecksum_inv h b position
  | fterm => exact footerTerminator_inv h b position

end

theorem regs_reset_inv (cfg : Config) : Regs.Inv cfg Regs.reset where
  closed _ := rfl
  header _ := ⟨rfl, rfl, rfl⟩
  payload := nofun
  footer := nofun
  faulted := nofun

theorem resetSession_inv (cfg : Config) (o : Bool) (x : Session) : Session.Inv cfg (resetSession o x) := by
  refine session_inv_of_header ?_ rfl le_rfl (heldPayload_resetSession o x)
  cases o with
  | false => exact regs_reset_inv cfg
  | true => exact regs_inv_of_header rfl rfl ⟨rfl, rfl, rfl⟩ nofun

theorem session_reset_inv (cfg : Config) : Session.Inv cfg Session.reset :=
  session_inv_of_header (regs_reset_inv cfg) rfl le_rfl rfl

end Sys2Proof.Machine
end

section
/-! SUPPORT. The invariants along deliveries, instructions and steps (10_state.md R32): a delivery is an induction over its
byte steps, and within the invariants it completes; what an ACCEPT stands for is read off them (R44). -/

namespace Sys2Proof.Machine

/-! ## Deliveries -/

/-- What every selected operation keeps, a delivery keeps. -/
theorem deliver_induction {cfg : Config} {P : Session → Prop}
    (keeps : ∀ {op : SelOp} {b : Byte} {x : Session}, selectOp x.regs = some op → P x → P (runOp cfg op b x))
    {bytes : List Byte} {x y : Session} (h : deliver cfg bytes x = .next y) (hx : P x) : P y := by
  induction bytes generalizing x with
  | nil => exact Host.Outcome.next.inj h ▸ hx
  | cons b bytes ih =>
    obtain ⟨z, first, rest⟩ := andThen_eq_next.1 h
    obtain ⟨op, hsel, rfl⟩ := byteStep_eq_next.1 first
    exact ih rest (keeps hsel hx)

theorem deliver_inv {cfg : Config} {bytes : List Byte} {x y : Session} (h : deliver cfg bytes x = .next y)
    (hx : Session.Inv cfg x) : Session.Inv cfg y :=
  deliver_induction (fun hsel hz => runOp_inv hz _ hsel) h hx

/-- No operation on a byte opens or closes the session. -/
theorem runOp_isOpen (cfg : Config) (op : SelOp) (b : Byte) (x : Session) :
    (runOp cfg op b x).regs.isOpen = x.regs.isOpen := by
  cases op with
  | hdrEnd => simp only [runOp, endHeader]; split <;> rfl
  | fck => simp only [runOp, footerChecksum]; split <;> rfl
  | dropClosed | dropFault | hdrBuf | pay | fterm => rfl

theorem deliver_isOpen {cfg : Config} {bytes : List Byte} {x y : Session} (h : deliver cfg bytes x = .next y) :
    y.regs.isOpen = x.regs.isOpen :=
  deliver_induction (P := fun z => z.regs.isOpen = x.regs.isOpen) (fun _ hz => (runOp_isOpen ..).trans hz) h rfl

/-- Within the invariants a delivery completes: no byte of it is stuck. -/
theorem deliver_completes {cfg : Config} (bytes : List Byte) {x : Session} (hx : Session.Inv cfg x) :
    ∃ y, deliver cfg bytes x = .next y := by
  induction bytes generalizing x with
  | nil => exact ⟨x, rfl⟩
  | cons b bytes ih =>
    obtain ⟨op, hsel⟩ := Option.ne_none_iff_exists'.1 (selectOp_ne_none_of_inv hx.regs)
    obtain ⟨y, rest⟩ := ih (runOp_inv hx b hsel)
    exact ⟨y, andThen_eq_next.2 ⟨_, byteStep_eq_next.2 ⟨op, hsel, rfl⟩, rest⟩⟩

/-! ## The addressed session of a state within the invariants -/

theorem State.Inv.addressed {s : State} {x : Session} (h : State.Inv s) (hx : Addressed s x) : Session.Inv s.cfg x :=
  h.sessions x (List.mem_of_getElem? hx)

theorem putSession_inv {s : State} {y : Session} (h : State.Inv s) (hy : Session.Inv s.cfg y) :
    State.Inv (putSession s y) where
  config := h.config
  sessions z hz := by
    obtain old | rfl := List.mem_or_eq_of_mem_set hz
    · exact h.sessions z old
    · exact hy
  dst := h.dst

/-- The pending input and the address have no part in the invariants. -/
theorem State.Inv.with_pending_target {s : State} (h : State.Inv s) (rest : List Request) (k : Nat) :
    State.Inv { s with pending := rest, target := k } := ⟨h.config, h.sessions, h.dst⟩

/-- Settles O21: within the invariants no byte is stuck, each byte step keeps them, and none writes `open`. -/
theorem deliveryCompletes : Obligations.DeliveryCompletes := by
  intro s x hs hx chunk
  obtain ⟨y, hy⟩ := deliver_completes chunk (hs.addressed hx)
  refine ⟨y, ?_, deliver_inv hy (hs.addressed hx), deliver_isOpen hy⟩
  rw [exec_sDeliver_addressed hx, hy, andThen_next]

/-! ## Instructions and steps -/

theorem onTarget_resetSession_eq_next {o : Bool} {s t : State}
    (h : onTarget s (fun x => .next (resetSession o x)) = .next t) :
    ∃ x, Addressed s x ∧ t = putSession s (resetSession o x) := by
  obtain ⟨x, _, hx, ⟨⟩, rfl⟩ := onTarget_eq_next.1 h
  exact ⟨x, hx, rfl⟩

/-- RST, S.OPEN and S.CLOSE reset the addressed session. -/
theorem exec_reset_eq_next {i : Instr} {s t : State} (hi : i = .rst ∨ i = .sOpen ∨ i = .sClose) (h : exec i s = .next t) :
    ∃ o x, Addressed s x ∧ t = putSession s (resetSession o x) := by
  obtain rfl | rfl | rfl := hi
  · exact ⟨false, onTarget_resetSession_eq_next h⟩
  · exact ⟨true, onTarget_resetSession_eq_next h⟩
  · exact ⟨false, onTarget_resetSession_eq_next h⟩

theorem exec_inv {i : Instr} {s t : State} (hs : State.Inv s) (h : exec i s = .next t) : State.Inv t := by
  obtain reset | ⟨call, frame⟩ | ⟨bytes, delivered⟩ := exec_eq_next_cases h
  · obtain ⟨o, x, -, rfl⟩ := exec_reset_eq_next reset h
    exact putSession_inv hs (resetSession_inv s.cfg o x)
  · obtain ⟨⟨written, dst⟩, -⟩ := exec_call_completes call h
    rw [frame, dst]
    exact ⟨hs.config, hs.sessions, memWriteList_wf written 0 hs.dst⟩
  · obtain ⟨x, y, hx, hy, rfl⟩ := onTarget_eq_next.1 delivered
    exact putSession_inv hs (deliver_inv hy (hs.addressed hx))

/-- Settles O29: every instruction keeps the invariants, and a step is one or only takes a request off. -/
theorem stepKeepsTheInvariants : Obligations.StepKeepsTheInvariants := by
  intro s t hs h
  obtain ⟨rest, idle⟩ | stop | ⟨i, rest, k, run⟩ := step_cases s
  · obtain rfl := Host.Outcome.next.inj (idle.symm.trans h)
    exact hs.with_pending_target rest s.target
  · cases stop.symm.trans h
  · exact exec_inv (hs.with_pending_target rest k) (run.symm.trans h)

/-- Settles O30: every session is at its reset values, and DST is empty. -/
theorem invariantsHoldAtReset : Obligations.InvariantsHoldAtReset := by
  have at_reset (cfg : Config) (n : Nat) (hwf : cfg.wf = true) :
      State.Inv { State.reset with cfg := cfg, sessions := List.replicate n Session.reset } :=
    ⟨hwf, fun x hx => List.eq_of_mem_replicate hx ▸ session_reset_inv cfg, reset_dst_wf⟩
  exact ⟨at_reset, at_reset Config.default nSessionsAtReset (by decide)⟩

/-! ## Nothing is stuck -/

theorem giveRet_ne_fault (s : State) (r : Ret) (f : Fault) : giveRet s r ≠ .fault f := nofun

/-- A call answers or refuses. -/
theorem exec_call_ne_fault {i : Instr} (hi : isCall i = true) (s : State) (f : Fault) : exec i s ≠ .fault f := by
  match i, hi with
  | .ckStep _ _, _ | .ckClr, _ | .decAtomic _, _ | .catName _, _ | .printData, _ | .status, _ | .setHeat, _
  | .printCtrl, _ | .setEnergy, _ | .draftMode, _ | .feedSpeed, _ | .printDataCompressed, _ => exact giveRet_ne_fault s _ f
  | .ckCalc bytes n seed, _ =>
    change execCkCalc bytes n seed s ≠ .fault f
    unfold execCkCalc
    split
    · exact giveRet_ne_fault s _ f
    · nofun
  | .encBuild command payload cap, _ =>
    change execEncBuild command payload cap s ≠ .fault f
    unfold execEncBuild
    split
    · nofun
    · split
      · nofun
      · exact giveRet_ne_fault _ _ f
  | .decVerify bytes d, _ =>
    change execDecVerify bytes d s ≠ .fault f
    unfold execDecVerify
    split
    · nofun
    · exact giveRet_ne_fault s _ f

/-- An operation on the addressed session is stuck only where that session is. -/
theorem onTarget_ne_stuck {s : State} {f : Session → Host.Outcome Session Fault Refusal}
    (h : ∀ x, Addressed s x → f x ≠ .fault .stuck) : onTarget s f ≠ .fault .stuck := by
  cases hx : s.sessions[s.target]? with
  | none =>
    rw [onTarget_none hx]
    nofun
  | some x =>
    rw [onTarget_addressed hx]
    have not_stuck := h x hx
    cases hf : f x with
    | next y => nofun
    | refused r => nofun
    | fault r =>
      rw [hf] at not_stuck
      rintro ⟨⟩
      exact not_stuck rfl

theorem exec_sDeliver_ne_stuck {s : State} (hs : State.Inv s) (bytes : List Byte) :
    exec (.sDeliver bytes) s ≠ .fault .stuck := by
  refine onTarget_ne_stuck fun x hx => ?_
  obtain ⟨y, hy⟩ := deliver_completes bytes (hs.addressed hx)
  rw [hy]
  nofun

theorem exec_selInstr_ne_stuck {s : State} (hs : State.Inv s) (op : SelOp) (b : Byte) :
    exec (selInstr op b) s ≠ .fault .stuck := by
  rw [exec_selInstr, runSelected_eq_onTarget]
  refine onTarget_ne_stuck fun x hx => ?_
  obtain ⟨op', hsel⟩ := Option.ne_none_iff_exists'.1 (selectOp_ne_none_of_inv (hs.addressed hx).regs)
  simp only [selectedStep, hsel]
  split <;> nofun

theorem exec_sByte_ne_stuck {s : State} (hs : State.Inv s) (b : Byte) : exec (.sByte b) s ≠ .fault .stuck := by
  refine onTarget_ne_stuck fun x hx => ?_
  obtain ⟨op, hsel⟩ := Option.ne_none_iff_exists'.1 (selectOp_ne_none_of_inv (hs.addressed hx).regs)
  rw [byteStep_eq_next.2 ⟨op, hsel, rfl⟩]
  nofun

theorem exec_ne_stuck (i : Instr) {s : State} (hs : State.Inv s) : exec i s ≠ .fault .stuck := by
  by_cases call : isCall i = true
  · exact exec_call_ne_fault call s .stuck
  match i, call with
  | .rst, _ | .sOpen, _ | .sClose, _ => exact onTarget_ne_stuck fun _ _ => nofun
  | .sDeliver chunk, _ => exact exec_sDeliver_ne_stuck hs chunk
  | .frameHeader c d l, _ => exact exec_sDeliver_ne_stuck hs (wireHeader s.cfg c d l)
  | .frameFooter k, _ => exact exec_sDeliver_ne_stuck hs (wireFooter k)
  | .sByte b, _ => exact exec_sByte_ne_stuck hs b
  | .sDropClosed b, _ => exact exec_selInstr_ne_stuck hs .dropClosed b
  | .sDropFault b, _ => exact exec_selInstr_ne_stuck hs .dropFault b
  | .sHdrbuf b, _ => exact exec_selInstr_ne_stuck hs .hdrBuf b
  | .sHdrend b, _ => exact exec_selInstr_ne_stuck hs .hdrEnd b
  | .sPay b, _ => exact exec_selInstr_ne_stuck hs .pay b
  | .sFck b, _ => exact exec_selInstr_ne_stuck hs .fck b
  | .sFterm b, _ => exact exec_selInstr_ne_stuck hs .fterm b

/-- Settles O31: within the invariants every session selects an operation, and an instruction is stuck only where it would
select none. -/
theorem invariantsExcludeStuck : Obligations.InvariantsExcludeStuck := by
  refine fun s hs => ⟨?_, fun x hx => selectOp_ne_none_of_inv (hs.sessions x hx).regs⟩
  obtain ⟨rest, idle⟩ | stop | ⟨i, rest, k, run⟩ := step_cases s
  · rw [idle]
    nofun
  · rw [stop]
    nofun
  · rw [run]
    exact exec_ne_stuck i (hs.with_pending_target rest k)

/-! ## What an ACCEPT stands for -/

/-- The payload of the event after a session's trace is the payload held there (R44). -/
theorem payloadOf_sessionTrace_emit (e : OutEvent) {x : Session} (hm : x.sinkMark ≤ x.sink.length) :
    payloadOf (sessionTrace (emit e x)) (sessionTrace x).length = heldPayload x := by
  have trace : sessionTrace (emit e x) = sessionTrace x ++ [e] := List.drop_append_of_le_length hm
  rw [payloadOf, trace, List.take_left, heldPayload]

theorem length_of_footerEvent_eq_accept {b c d : Byte} {l : Half} {r : Regs} (h : footerEvent b r = .accept c d l) :
    r.hdr.payloadLength = l := by
  unfold footerEvent at h
  split at h
  · cases h
    rfl
  · cases h

/-- Settles O37: where S.FTERM runs, items 4 and 6 of R32 hold of the payload held, and its event ends the packet. -/
theorem acceptedPayloadIsThePayBytes : Obligations.AcceptedPayloadIsThePayBytes := by
  intro s t x y b c d l hs hx h hy hsink
  have inv := hs.addressed hx
  obtain ⟨x', hx', hsel, -⟩ := runSelected_eq_next.1 h
  obtain rfl : x = x' := Option.some.inj (hx.symm.trans hx')
  obtain rfl : y = footerTerminator b x := addressed_of_exec_selInstr (op := .fterm) hx h hy
  obtain ⟨-, hstate, -⟩ := selectOp_position hsel
  obtain ⟨-, none_left, -, magic, -, -⟩ := inv.regs.footer hstate
  have inside : x.regs.state ≠ .awaitingHeader := by simp [hstate]
  have payload : payloadOf (sessionTrace (footerTerminator b x)) (sessionTrace x).length = heldPayload x :=
    payloadOf_sessionTrace_emit (footerEvent b x.regs) inv.mark
  have length : x.regs.hdr.payloadLength = l :=
    length_of_footerEvent_eq_accept (List.singleton_inj.1 (List.append_cancel_left hsink))
  rw [payload]
  refine ⟨?_, (inv.checksum inside).symm, magic, heldPayload_footerTerminator inv b⟩
  rw [inv.consumed inside, none_left, length]
  rfl

end Sys2Proof.Machine
end

section
/-! SUPPORT. What an operation adds to a session's trace and does to its `fault` and its mode (10_state.md R43,
60_exceptions.md R205, R218, R226), and how the ports show it (10_state.md R46). -/

namespace Sys2Proof.Machine

/-! ## The trace and the fault flag along byte steps -/

/-- From `x` to `y` the trace grows by `new`, in which the reasons that occur are R100's; `fault` stays set, and is set only
with the REJECT of a wrong magic (R201, R218). -/
structure Grown (cfg : Config) (x y : Session) (new : List OutEvent) : Prop where
  sink : y.sink = x.sink ++ new
  reasons : ∀ q m c d l, .reject q m c d l ∈ new → q = 1 ∨ q = 2 ∨ q = 3 ∨ q = 4
  sticky : x.regs.fault = true → y.regs.fault = true
  raised : x.regs.fault = false → y.regs.fault = true → ∃ m c d l, m ≠ cfg.magic ∧ .reject 4 m c d l ∈ new

section
variable {cfg : Config} {x y z : Session}

theorem Grown.of_same (hsink : y.sink = x.sink) (hfault : y.regs.fault = x.regs.fault) : Grown cfg x y [] where
  sink := by simpa using hsink
  reasons := nofun
  sticky h := hfault.trans h
  raised h h' := absurd (h.symm.trans (hfault.symm.trans h')) Bool.false_ne_true

theorem Grown.of_event {e : OutEvent} (hsink : y.sink = x.sink ++ [e]) (hfault : y.regs.fault = x.regs.fault)
    (hreason : ∀ q m c d l, e = .reject q m c d l → q = 1 ∨ q = 2 ∨ q = 3 ∨ q = 4) : Grown cfg x y [e] where
  sink := hsink
  reasons q m c d l h := hreason q m c d l (List.mem_singleton.1 h).symm
  sticky h := hfault.trans h
  raised h h' := absurd (h.symm.trans (hfault.symm.trans h')) Bool.false_ne_true

theorem Grown.trans {new new' : List OutEvent} (h : Grown cfg x y new) (h' : Grown cfg y z new') :
    Grown cfg x z (new ++ new') where
  sink := by rw [h'.sink, h.sink, List.append_assoc]
  reasons q m c d l mem := (List.mem_append.1 mem).elim (h.reasons q m c d l) (h'.reasons q m c d l)
  sticky hf := h'.sticky (h.sticky hf)
  raised clear set := by
    cases between : y.regs.fault with
    | true =>
      obtain ⟨m, c, d, l, wrong, mem⟩ := h.raised clear between
      exact ⟨m, c, d, l, wrong, List.mem_append_left _ mem⟩
    | false =>
      obtain ⟨m, c, d, l, wrong, mem⟩ := h'.raised between set
      exact ⟨m, c, d, l, wrong, List.mem_append_right _ mem⟩

end

/-- A footer REJECT has a reason bit set, and never bit 2. -/
theorem reason_of_footerEvent {b : Byte} {r : Regs} {q : BitVec 3} {m : Half} {c d : Byte} {l : Half}
    (h : footerEvent b r = .reject q m c d l) : q = 1 ∨ q = 2 ∨ q = 3 := by
  have some_bit : ∀ termBad ckBad : Bool, (termBad || ckBad) = true →
      footerReason termBad ckBad = 1 ∨ footerReason termBad ckBad = 2 ∨ footerReason termBad ckBad = 3 := by decide
  unfold footerEvent at h
  split at h
  · cases h
  · next bad =>
    cases h
    apply some_bit
    cases hck : r.ckBad with
    | true => exact Bool.or_true _
    | false => simpa using fun term_good => bad ⟨hck, term_good⟩

/-- One operation on a byte emits at most one event. -/
theorem runOp_grown (cfg : Config) (op : SelOp) (b : Byte) (x : Session) :
    ∃ new, Grown cfg x (runOp cfg op b x) new ∧ new.length ≤ 1 := by
  cases op with
  | dropClosed | dropFault | hdrBuf => exact ⟨[], .of_same rfl rfl, Nat.zero_le 1⟩
  | pay => exact ⟨_, .of_event rfl rfl nofun, le_rfl⟩
  | fterm =>
    refine ⟨_, .of_event rfl rfl fun q m c d l h => ?_, le_rfl⟩
    obtain one | two | three := reason_of_footerEvent h
    · exact .inl one
    · exact .inr (.inl two)
    · exact .inr (.inr (.inl three))
  | fck =>
    simp only [runOp, footerChecksum]
    split
    · exact ⟨[], .of_same rfl rfl, Nat.zero_le 1⟩
    · exact ⟨_, .of_event rfl rfl nofun, le_rfl⟩
  | hdrEnd =>
    by_cases magic : (completedHeader b x.regs).magic = cfg.magic
    · simp only [runOp, endHeader_of_match magic]
      exact ⟨[], .of_same rfl rfl, Nat.zero_le 1⟩
    · simp only [runOp, endHeader_of_mismatch magic]
      refine ⟨[errorEvent (.magicMismatch (completedHeader b x.regs))],
        ⟨rfl, fun q m c d l h => ?_, fun _ => rfl, fun _ _ => ?_⟩, le_rfl⟩
      · cases List.mem_singleton.1 h
        exact .inr (.inr (.inr rfl))
      · exact ⟨_, _, _, _, magic, List.mem_singleton.2 rfl⟩

/-- A delivery emits at most one event for each of its bytes. -/
theorem deliver_grown {cfg : Config} {bytes : List Byte} {x y : Session} (h : deliver cfg bytes x = .next y) :
    ∃ new, Grown cfg x y new ∧ new.length ≤ bytes.length := by
  induction bytes generalizing x with
  | nil => exact ⟨[], Host.Outcome.next.inj h ▸ .of_same rfl rfl, le_rfl⟩
  | cons b bytes ih =>
    obtain ⟨z, first, rest⟩ := andThen_eq_next.1 h
    obtain ⟨op, -, rfl⟩ := byteStep_eq_next.1 first
    obtain ⟨new, grown, one⟩ := runOp_grown cfg op b x
    obtain ⟨new', grown', few⟩ := ih rest
    refine ⟨new ++ new', grown.trans grown', ?_⟩
    rw [List.length_append, List.length_cons]
    omega

/-! ## One instruction -/

@[simp] theorem deliver_singleton (cfg : Config) (b : Byte) (x : Session) : deliver cfg [b] x = byteStep cfg b x := by
  rw [deliver]
  cases byteStep cfg b x <;> rfl

/-- An instruction that is no call, no reset and not several byte steps is one byte step. -/
theorem exec_eq_next_of_oneByte {i : Instr} {s t : State} (many : isManyBytes i = false) (call : isCall i = false)
    (not_reset : ¬ (i = .rst ∨ i = .sOpen ∨ i = .sClose)) (h : exec i s = .next t) :
    ∃ b, exec (.sDeliver [b]) s = .next t := by
  match i, many, call with
  | .rst, _, _ | .sOpen, _, _ | .sClose, _, _ => simp at not_reset
  | .sByte b, _, _ =>
    refine ⟨b, ?_⟩
    rw [← h]
    exact congrArg (onTarget s) (funext (deliver_singleton s.cfg b))
  | .sDropClosed b, _, _ => exact ⟨b, exec_sDeliver_singleton_of_selInstr (op := .dropClosed) h⟩
  | .sDropFault b, _, _ => exact ⟨b, exec_sDeliver_singleton_of_selInstr (op := .dropFault) h⟩
  | .sHdrbuf b, _, _ => exact ⟨b, exec_sDeliver_singleton_of_selInstr (op := .hdrBuf) h⟩
  | .sHdrend b, _, _ => exact ⟨b, exec_sDeliver_singleton_of_selInstr (op := .hdrEnd) h⟩
  | .sPay b, _, _ => exact ⟨b, exec_sDeliver_singleton_of_selInstr (op := .pay) h⟩
  | .sFck b, _, _ => exact ⟨b, exec_sDeliver_singleton_of_selInstr (op := .fck) h⟩
  | .sFterm b, _, _ => exact ⟨b, exec_sDeliver_singleton_of_selInstr (op := .fterm) h⟩

/-- The bytes an instruction delivers, if it is no call and no reset: one, unless it is a row of several byte steps. -/
theorem exec_eq_next_cases_length {i : Instr} {s t : State} (h : exec i s = .next t) :
    (i = .rst ∨ i = .sOpen ∨ i = .sClose) ∨ t.sessions = s.sessions ∨
      ∃ bytes, exec (.sDeliver bytes) s = .next t ∧ (isManyBytes i = false → bytes.length = 1) := by
  by_cases reset : i = .rst ∨ i = .sOpen ∨ i = .sClose
  · exact .inl reset
  cases call : isCall i with
  | true => exact .inr (.inl (exec_call_sessions call h))
  | false =>
    cases many : isManyBytes i with
    | false =>
      obtain ⟨b, delivered⟩ := exec_eq_next_of_oneByte many call reset h
      exact .inr (.inr ⟨[b], delivered, fun _ => rfl⟩)
    | true =>
      obtain is_reset | ⟨is_call, -⟩ | ⟨bytes, delivered⟩ := exec_eq_next_cases h
      · exact absurd is_reset reset
      · exact absurd (call.symm.trans is_call) Bool.false_ne_true
      · exact .inr (.inr ⟨bytes, delivered, nofun⟩)

/-- What an instruction does to any one session: it resets the addressed one, or the session's trace grows, by at most one
event unless the instruction is several byte steps. -/
theorem exec_session_cases {i : Instr} {s t : State} {k : Nat} {x y : Session} (h : exec i s = .next t)
    (hx : s.sessions[k]? = some x) (hy : t.sessions[k]? = some y) :
    (k = s.target ∧ (i = .rst ∨ i = .sOpen ∨ i = .sClose) ∧ ∃ o, y = resetSession o x) ∨
      ∃ new, Grown s.cfg x y new ∧ (isManyBytes i = false → new.length ≤ 1) := by
  have unchanged (same : t.sessions[k]? = s.sessions[k]?) :
      ∃ new, Grown s.cfg x y new ∧ (isManyBytes i = false → new.length ≤ 1) := by
    obtain rfl : x = y := Option.some.inj (hx.symm.trans (same.symm.trans hy))
    exact ⟨[], .of_same rfl rfl, fun _ => Nat.zero_le 1⟩
  by_cases hk : k = s.target
  swap
  · obtain ⟨-, -, -, -, others⟩ := exec_frame h
    exact .inr (unchanged (others k hk))
  subst hk
  obtain reset | same | ⟨bytes, delivered, one⟩ := exec_eq_next_cases_length h
  · obtain ⟨o, x', hx', rfl⟩ := exec_reset_eq_next reset h
    obtain rfl : x = x' := Option.some.inj (hx.symm.trans hx')
    exact .inl ⟨rfl, reset, o, Option.some.inj (hy.symm.trans (addressed_putSession hx _))⟩
  · exact .inr (unchanged (by rw [same]))
  · obtain ⟨x', y', hx', hy', rfl⟩ := onTarget_eq_next.1 delivered
    obtain rfl : x = x' := Option.some.inj (hx.symm.trans hx')
    obtain rfl : y = y' := Option.some.inj (hy.symm.trans (addressed_putSession hx _))
    obtain ⟨new, grown, few⟩ := deliver_grown hy'
    exact .inr ⟨new, grown, fun many => one many ▸ few⟩

/-- Settles O32: a reset is the one way to clear the flag, and a trace that grows keeps it or says why it is set. -/
theorem faultIsSticky : Obligations.FaultIsSticky := by
  intro i s t k x y h hx hy
  obtain ⟨hk, reset, o, rfl⟩ | ⟨new, grown, -⟩ := exec_session_cases h hx hy
  · exact ⟨fun _ => .inr ⟨hk, reset⟩, nofun⟩
  · rw [grown.sink, List.drop_left]
    exact ⟨fun set => .inl (grown.sticky set), grown.raised⟩

/-- Settles O34: a reset emits nothing, and any other instruction appends to the trace. -/
theorem traceGrowsByAtMostOneEvent : Obligations.TraceGrowsByAtMostOneEvent := by
  intro i s t k x y h hx hy
  obtain ⟨-, -, o, rfl⟩ | ⟨new, grown, one⟩ := exec_session_cases h hx hy
  · exact ⟨[], (List.append_nil x.sink).symm, fun _ => Nat.zero_le 1⟩
  · exact ⟨new, grown.sink, one⟩

/-- Settles O35: a reset emits nothing, and what is appended otherwise has R100's reasons. -/
theorem onlyFourReasonsOccur : Obligations.OnlyFourReasonsOccur := by
  intro i s t k x y h hx hy q m c d l mem
  obtain ⟨-, -, o, rfl⟩ | ⟨new, grown, -⟩ := exec_session_cases h hx hy
  · simp at mem
  · rw [grown.sink, List.drop_left] at mem
    exact grown.reasons q m c d l mem

/-! ## The mode -/

theorem mode_eq_opened_iff {r : Regs} : mode r = .opened ↔ Parsing r := by
  unfold mode Parsing
  cases r.isOpen <;> cases r.fault <;> simp

/-- The mode is made of the two flags. -/
theorem mode_congr {r r' : Regs} (ho : r'.isOpen = r.isOpen) (hf : r'.fault = r.fault) : mode r' = mode r := by
  simp only [mode, ho, hf]

theorem mode_of_faulted {r : Regs} (ho : r.isOpen = true) (hf : r.fault = true) : mode r = .faulted := by
  simp only [mode, ho, hf, if_true]

/-- S.HDREND is the only operation that writes `fault`, where the magic is wrong (R201). -/
theorem runOp_fault (cfg : Config) (op : SelOp) (b : Byte) (x : Session) :
    (runOp cfg op b x).regs.fault =
      if op = .hdrEnd ∧ (completedHeader b x.regs).magic ≠ cfg.magic then true else x.regs.fault := by
  cases op with
  | dropClosed | dropFault | hdrBuf | pay | fterm => rfl
  | fck => simp only [runOp, footerChecksum]; split <;> rfl
  | hdrEnd =>
    by_cases magic : (completedHeader b x.regs).magic = cfg.magic
    · rw [if_neg fun wrong => wrong.2 magic]
      exact congrArg (·.regs.fault) (endHeader_of_match magic)
    · rw [if_pos ⟨rfl, magic⟩]
      exact congrArg (·.regs.fault) (endHeader_of_mismatch magic)

/-- The position at which S.HDREND runs (R154), in the words of R226. -/
theorem eq_hdrEnd_iff_of_selected {op : SelOp} {r : Regs} (hsel : selectOp r = some op) :
    op = .hdrEnd ↔ mode r = .opened ∧ r.state = .awaitingHeader ∧ r.hdrCnt = 5 := by
  rw [mode_eq_opened_iff]
  constructor
  · rintro rfl
    exact selectOp_position hsel
  · rintro ⟨parsing, hs, last⟩
    exact Option.some.inj (hsel.symm.trans (selectOp_hdrEnd parsing hs last))

theorem mode_runOp {cfg : Config} {op : SelOp} {b : Byte} {x : Session} (hsel : selectOp x.regs = some op) :
    mode (runOp cfg op b x).regs =
      if mode x.regs = .opened ∧ x.regs.state = .awaitingHeader ∧ x.regs.hdrCnt = 5 ∧
          x.regs.hdrBuf[1] ++ x.regs.hdrBuf[0] ≠ cfg.magic then .faulted
      else mode x.regs := by
  have position := eq_hdrEnd_iff_of_selected hsel
  have opened := runOp_isOpen cfg op b x
  have fault := runOp_fault cfg op b x
  split
  · next wrong =>
    obtain ⟨mode_open, header, last, magic⟩ := wrong
    obtain ⟨is_open, -⟩ := mode_eq_opened_iff.1 mode_open
    exact mode_of_faulted (opened.trans is_open) (fault.trans (if_pos ⟨position.2 ⟨mode_open, header, last⟩, magic⟩))
  · next not_wrong =>
    refine mode_congr opened (fault.trans (if_neg ?_))
    rintro ⟨is_hdrEnd, magic⟩
    obtain ⟨mode_open, header, last⟩ := position.1 is_hdrEnd
    exact not_wrong ⟨mode_open, header, last, magic⟩

/-- Settles O33: a reset gives its own mode, and a byte's operation sets `fault` at a wrong magic only. -/
theorem modeTransitionsAreComplete : Obligations.ModeTransitionsAreComplete := by
  refine fun s x hx => ⟨⟨_, exec_sOpen_addressed hx, rfl⟩, ⟨_, exec_sClose_addressed hx, rfl⟩,
    ⟨_, exec_rst_addressed hx, rfl⟩, fun b t y h hy => ?_⟩
  obtain ⟨x', y', hx', hb, rfl⟩ := onTarget_eq_next.1 h
  obtain rfl : x = x' := Option.some.inj (hx.symm.trans hx')
  obtain rfl : y = y' := Option.some.inj (hy.symm.trans (addressed_putSession hx _))
  obtain ⟨op, hsel, rfl⟩ := byteStep_eq_next.1 hb
  exact mode_runOp hsel

/-! ## The ports -/

/-- A cycle emits at most one event. -/
theorem cycleSession_sink {cfg : Config} {p : InPorts} {x y : Session} (h : cycleSession cfg p x = .next y) :
    y.sink = x.sink ∨ ∃ e, y.sink = x.sink ++ [e] := by
  unfold cycleSession at h
  split at h
  · cases h; exact .inl rfl
  · cases h; exact .inl rfl
  · cases h; exact .inl rfl
  · obtain ⟨new, grown, one⟩ := deliver_grown ((deliver_singleton cfg p.inData x).trans h)
    match new, one with
    | [], _ => exact .inl (grown.sink.trans (List.append_nil x.sink))
    | [e], _ => exact .inr ⟨e, grown.sink⟩
  · cases h; exact .inl rfl

/-- Settles O42: the event of the cycle's step decides the strobes; a status level is its register. -/
theorem strobesShowTheEmittedEvent : Obligations.StrobesShowTheEmittedEvent := by
  intro cfg p x y o h
  obtain ⟨z, hz, outputs⟩ := andThen_eq_next.1 h
  cases outputs
  refine ⟨rfl, ⟨rfl, rfl, ?_, ?_, rfl, rfl, rfl, rfl, ?_, rfl⟩, ?_⟩
  · change stateCode x.regs.state = _
    cases x.regs.state <;> rfl
  · exact Nat.mod_eq_of_lt (by omega)
  · exact Nat.mod_eq_of_lt (by omega)
  · obtain none_emitted | ⟨e, emitted⟩ := cycleSession_sink hz
    · rw [none_emitted, List.drop_length]
      exact .inl ⟨rfl, rfl, rfl, rfl⟩
    · rw [emitted, List.drop_left]
      refine .inr ?_
      cases e with
      | pay i b => exact .inl ⟨i, b, rfl, rfl, rfl, rfl⟩
      | diagCk c v => exact .inr (.inl ⟨c, v, rfl, rfl, rfl, rfl⟩)
      | accept c d l => exact .inr (.inr (.inl ⟨c, d, l, rfl, rfl, rfl, rfl⟩))
      | reject q m c d l => exact .inr (.inr (.inr ⟨q, m, c, d, l, rfl, rfl, rfl, rfl⟩))

/-! ## Deliveries to two sessions -/

/-- Two deliveries that complete on their own sessions complete one after the other. -/
theorem exec_two_deliveries {s : State} {a b : Nat} {x x' y y' : Session} {p q : List Byte} (hab : a ≠ b)
    (hx : s.sessions[a]? = some x) (hy : s.sessions[b]? = some y) (hp : deliver s.cfg p x = .next x')
    (hq : deliver s.cfg q y = .next y') :
    andThen (exec (.sDeliver p) { s with target := a }) (fun t => exec (.sDeliver q) { t with target := b }) =
      .next { s with sessions := (s.sessions.set a x').set b y', target := b } := by
  have first : exec (.sDeliver p) { s with target := a } = .next (putSession { s with target := a } x') :=
    onTarget_eq_next.2 ⟨x, x', hx, hp, rfl⟩
  rw [first, andThen_next]
  exact onTarget_eq_next.2 ⟨y, y', (List.getElem?_set_ne hab).trans hy, hq, rfl⟩

/-- Settles O39: within the invariants both complete, and two entries of a list can be replaced in either order. -/
theorem eventsOfTwoSessionsCommute : Obligations.EventsOfTwoSessionsCommute := by
  intro s a b x y p q hab hs hx hy
  obtain ⟨x', hp⟩ := deliver_completes p (hs.sessions x (List.mem_of_getElem? hx))
  obtain ⟨y', hq⟩ := deliver_completes q (hs.sessions y (List.mem_of_getElem? hy))
  refine ⟨(s.sessions.set a x').set b y', exec_two_deliveries hab hx hy hp hq, ?_⟩
  rw [exec_two_deliveries hab.symm hy hx hq hp, List.set_comm _ _ hab]

end Sys2Proof.Machine
end

section
/-! SUPPORT. What the parser and the calls answer beside their contracts (93_implementation_defined.md U1, U2, U5), the laws
of the checksum (40_checksum.md R113, R114, R118), and the round trip of the codec (41_codec.md R138). -/

namespace Sys2Proof.Machine

/-! ## Positions and rows a byte does not select -/

theorem selectOp_of_excluded {r : Regs} (hp : Parsing r) (he : ExcludedPosition r) : selectOp r = none := by
  obtain ⟨ho, hf⟩ := hp
  obtain ⟨hs, none_left⟩ | ⟨hs, none_left⟩ := he
  · simp [selectOp_eq, ho, hf, hs, none_left]
  · simp [selectOp_eq, ho, hf, hs, none_left]

/-- Settles O18: at an excluded position no operation is selected. -/
theorem excludedPositionIsStuck : Obligations.ExcludedPositionIsStuck := by
  intro s x b hx hp he
  rw [exec_sByte_addressed hx, byteStep, selectOp_of_excluded hp he]
  rfl

/-- Settles O19: the row presented is compared with the row selected. -/
theorem unselectedOperationIsRefused : Obligations.UnselectedOperationIsRefused := by
  intro s x b op op' hx hsel differ
  have refused : selectedStep op b s.cfg x = .refused (.notSelected op) := by
    simp only [selectedStep, hsel, if_neg differ]
  rw [exec_selInstr, runSelected_eq_onTarget, onTarget_addressed hx, refused, andThen_refused]

/-! ## Calls outside their contracts -/

theorem exec_encBuild_of_tooLong (command : Byte) {payload : List Byte} (cap : Nat) (s : State)
    (long : maxPayload < payload.length) : exec (.encBuild command payload cap) s = .refused .encodeTooLong :=
  if_pos long

theorem exec_encBuild_of_noRoom (command : Byte) {payload : List Byte} {cap : Nat} (s : State)
    (fits : payload.length ≤ maxPayload) (small : cap < frameLen payload.length) :
    exec (.encBuild command payload cap) s = .refused .encodeCapacity :=
  (if_neg (Nat.not_lt.2 fits)).trans (if_pos small)

/-- Settles O51: each precondition is tested first, ENC.BUILD's length before its capacity. -/
theorem falsePreconditionsAreRefused : Obligations.FalsePreconditionsAreRefused := by
  refine fun s => ⟨fun command payload cap => ⟨exec_encBuild_of_tooLong command cap s, fun fits small => ?_⟩,
    fun _ _ _ beyond => if_neg (Nat.not_le.2 beyond), fun _ _ beyond => if_pos beyond⟩
  have small' : cap < frameLen payload.length := by
    simp only [frameLen, headerSize, footerSize]
    omega
  exact exec_encBuild_of_noRoom command s fits small'

/-! ## The checksum -/

theorem exec_ckCalc_length (bytes : List Byte) (seed : Byte) (s : State) :
    exec (.ckCalc bytes bytes.length seed) s = .next { s with ret := some (.checksum (ckFold s.cfg.ckStep bytes seed)) } := by
  rw [exec_ckCalc_of_le le_rfl, ckCalc_length]

/-- Settles O46: the fold over a concatenation goes on from where the fold over the first part ends. -/
theorem ckCalcSplits : Obligations.CkCalcSplits := by
  intro s a b seed
  refine ⟨_, _, exec_ckCalc_length a seed s, exec_ckCalc_length b _ s, ?_⟩
  rw [← List.length_append, exec_ckCalc_length, ckFold_append]

/-- The table of a function of two bytes: the value at `(s, b)` stands at the number `s ++ b` (log entry 3). -/
def ckTable (f : Byte → Byte → Byte) : Vector Byte 65536 :=
  Vector.ofFn fun i => f (hiByte (BitVec.ofNat 16 i.val)) (loByte (BitVec.ofNat 16 i.val))

theorem ckApply_table (f : Byte → Byte → Byte) (a b : Byte) : ckApply (.table (ckTable f)) a b = f a b := by
  have index : BitVec.ofNat 16 (a ++ b).toNat = joinBytes a b := by simp [joinBytes]
  simp only [ckApply, ckTable, Vector.getElem_ofFn, index, hiByte_joinBytes, loByte_joinBytes]

/-- Settles O48: a function's table is a value of the parameter. -/
theorem everyStepFunctionIsAParameter : Obligations.EveryStepFunctionIsAParameter := fun f =>
  ⟨.table (ckTable f), ckApply_table f⟩

theorem endHeader_cksum (cfg : Config) (b : Byte) (x : Session) :
    (endHeader cfg b x).regs.cksum = if (completedHeader b x.regs).magic = cfg.magic then ckSeed0 else x.regs.cksum := by
  by_cases magic : (completedHeader b x.regs).magic = cfg.magic
  · rw [endHeader_of_match magic, if_pos magic]
    rfl
  · rw [endHeader_of_mismatch magic, if_neg magic]
    rfl

/-- Settles O49: the lone call returns CK_SEED0, and S.HDREND writes it where it accepts the header. -/
theorem ckClrClearsTheChecksum : Obligations.CkClrClearsTheChecksum := fun s =>
  ⟨rfl, fun x b hx hp hs hc =>
    ⟨_, exec_selInstr_of_selected hx (selectOp_hdrEnd hp hs hc) b, endHeader_cksum s.cfg b x⟩⟩

/-! ## DEC.VERIFY and the round trip -/

theorem exec_decVerify_of_le {bytes : List Byte} {d : Decoded} (h : 6 + d.header.payloadLength.toNat ≤ bytes.length)
    (s : State) : exec (.decVerify bytes d) s = .next { s with ret := some (.reason (verifyFooter s.cfg bytes d)) } :=
  exec_decVerify_eq_next.2 ⟨h, rfl⟩

/-- The two bits of a reason (R137). -/
theorem verifyReason_bits : ∀ termBad ckBad : Bool,
    (verifyReason termBad ckBad).getLsbD 0 = ckBad ∧ (verifyReason termBad ckBad).getLsbD 1 = termBad := by decide

/-- The payload CK.CALC folds is the whole view. -/
theorem ckCalc_srcView (k : CkStep) (bytes : List Byte) (off len : Nat) (seed : Byte) :
    ckCalc k (srcView bytes off len) len seed = ckFold k (srcView bytes off len) seed := by
  rw [ckCalc, srcView, List.take_take, Nat.min_self]

theorem verifyFooter_eq (cfg : Config) (bytes : List Byte) (d : Decoded) :
    verifyFooter cfg bytes d =
      verifyReason (d.footer.terminator != terminator)
        (d.footer.checksum != ckFold cfg.ckStep (srcView bytes 6 d.header.payloadLength.toNat) ckSeed0) := by
  rw [← ckCalc_srcView]
  rfl

/-- Settles O53: the two bits are the two comparisons. -/
theorem decVerifyComparesTheFooter : Obligations.DecVerifyComparesTheFooter := by
  intro s bytes d h
  refine ⟨_, exec_decVerify_of_le h s, ?_, ?_⟩
  · rw [verifyFooter_eq, (verifyReason_bits _ _).1, bne_iff_ne]
    rfl
  · rw [verifyFooter_eq, (verifyReason_bits _ _).2, bne_iff_ne]
    rfl

/-- What DEC.ATOMIC finds in a whole frame with this header and these footer bytes (R132). -/
def decodedFrame (h : Header) (k t : Byte) : Decoded :=
  { header := h, command := h.command, payloadOffset := 6, payloadLength := h.payloadLength.toNat,
    footer := { checksum := k, terminator := t } }

section
variable {b0 b1 b2 b3 b4 b5 : Byte} {payload : List Byte} (hlen : (b5 ++ b4).toNat = payload.length)
include hlen

theorem decodePacket_frame {cfg : Config} (hm : b1 ++ b0 = cfg.magic) (k t : Byte) :
    decodePacket cfg (b0 :: b1 :: b2 :: b3 :: b4 :: b5 :: (payload ++ [k, t])) =
      .decoded (decodedFrame (parseHeader b0 b1 b2 b3 b4 b5) k t) := by
  refine decodePacket_of_footer hm ?_ ?_
  · rw [hlen, Nat.add_comm 6]
    simp
  · rw [hlen, Nat.add_comm 7]
    simp

theorem payloadView_frame (k t : Byte) :
    payloadView (b0 :: b1 :: b2 :: b3 :: b4 :: b5 :: (payload ++ [k, t]))
      (decodedFrame (parseHeader b0 b1 b2 b3 b4 b5) k t) = payload :=
  List.take_left' hlen.symm

theorem verifyFooter_frame (cfg : Config) (k t : Byte) :
    verifyFooter cfg (b0 :: b1 :: b2 :: b3 :: b4 :: b5 :: (payload ++ [k, t]))
        (decodedFrame (parseHeader b0 b1 b2 b3 b4 b5) k t) =
      verifyReason (t != terminator) (k != ckFold cfg.ckStep payload ckSeed0) := by
  rw [verifyFooter_eq]
  exact congrArg (fun view => verifyReason (t != terminator) (k != ckFold cfg.ckStep view ckSeed0))
    (payloadView_frame hlen k t)

end

/-- The length field holds the length of any payload a frame can have (R131). -/
theorem payloadLength_toNat {payload : List Byte} (h : payload.length ≤ maxPayload) :
    (BitVec.ofNat 16 payload.length).toNat = payload.length :=
  Nat.mod_eq_of_lt (Nat.lt_succ_of_le h)

/-- The two bytes of the length field give that length back. -/
theorem payloadLength_bytes_toNat {payload : List Byte} (h : payload.length ≤ maxPayload) :
    (hiByte (BitVec.ofNat 16 payload.length) ++ loByte (BitVec.ofNat 16 payload.length)).toNat = payload.length := by
  rw [hiByte_append_loByte, payloadLength_toNat h]

/-- The header of a well-formed frame. -/
def goodHeader (cfg : Config) (command direction : Byte) (payload : List Byte) : Header :=
  { magic := cfg.magic, command := command, direction := direction, payloadLength := BitVec.ofNat 16 payload.length }

theorem goodFrame_eq (cfg : Config) (command direction : Byte) (payload : List Byte) :
    goodFrame cfg command direction payload =
      loByte cfg.magic :: hiByte cfg.magic :: command :: direction :: loByte (BitVec.ofNat 16 payload.length) ::
        hiByte (BitVec.ofNat 16 payload.length) :: (payload ++ [ckFold cfg.ckStep payload ckSeed0, terminator]) := by
  rw [goodFrame, ckCalc_length]
  rfl

/-- What DEC.ATOMIC and DEC.VERIFY find in a well-formed frame (R105, R138). -/
theorem decode_goodFrame (cfg : Config) (command direction : Byte) {payload : List Byte} (h : payload.length ≤ maxPayload) :
    ∃ d, decodePacket cfg (goodFrame cfg command direction payload) = .decoded d ∧
      d.header = goodHeader cfg command direction payload ∧ d.command = command ∧
      payloadView (goodFrame cfg command direction payload) d = payload ∧
      verifyFooter cfg (goodFrame cfg command direction payload) d = 0 := by
  have length := payloadLength_bytes_toNat h
  have no_error : verifyReason (terminator != terminator)
      (ckFold cfg.ckStep payload ckSeed0 != ckFold cfg.ckStep payload ckSeed0) = 0 := by
    simp only [bne_self_eq_false]
    rfl
  rw [goodFrame_eq]
  exact ⟨_, decodePacket_frame length (hiByte_append_loByte cfg.magic) _ _,
    parseHeader_of_bytes (goodHeader cfg command direction payload), rfl, payloadView_frame length _ _, (verifyFooter_frame length cfg _ _).trans no_error⟩

/-- Settles O54: what ENC.BUILD returns is a well-formed frame. -/
theorem encodedFramesDecode : Obligations.EncodedFramesDecode := by
  intro s command payload cap hlen hcap
  have room : frameLen payload.length ≤ cap := by
    simp only [frameLen, headerSize, footerSize]
    omega
  obtain ⟨d, decoded, header, same_command, view, verified⟩ := decode_goodFrame s.cfg command s.cfg.encDirection hlen
  have length : d.header.payloadLength.toNat = payload.length := by
    rw [header]
    exact payloadLength_toNat hlen
  have inside : 6 + d.header.payloadLength.toNat ≤ (encodedFrame s.cfg command payload).length := by
    rw [length, encodedFrame_length]
    omega
  refine ⟨_, _, _, encodedFrame s.cfg command payload, d, exec_encBuild_eq_next.2 ⟨hlen, room, rfl⟩, rfl,
    exec_decAtomic _ _, ?_, same_command, view, by rw [header]; rfl, length, exec_decVerify_of_le inside _, ?_⟩
  · exact congrArg (fun r => some (Ret.atomic r)) decoded
  · exact congrArg (fun r => some (Ret.reason r)) verified

end Sys2Proof.Machine
end

section
/-! SUPPORT. What the bytes of a frame do when they are delivered (42_stream_parser.md): header, payload and footer, the whole
frame, and frames one after the other in any chunks. -/

namespace Sys2Proof.Machine

/-! ## Chunks -/

theorem exec_sDeliver_append {s : State} {x : Session} (hx : Addressed s x) (a b : List Byte) :
    exec (.sDeliver (a ++ b)) s = andThen (exec (.sDeliver a) s) (exec (.sDeliver b)) := by
  have rest : ∀ y, exec (.sDeliver b) (putSession s y) =
      andThen (deliver s.cfg b y) fun z => .next (putSession s z) := fun y => by
    simp [exec_sDeliver_addressed (addressed_putSession hx y)]
  simp only [exec_sDeliver_addressed hx, deliver_append, andThen_assoc, andThen_next, rest]

/-- Deliveries in order, from any outcome: a fault or a refusal stands. -/
theorem foldl_deliveries (o : Host.Outcome State Fault Refusal) (chunks : List (List Byte)) :
    chunks.foldl (fun o c => andThen o (exec (.sDeliver c))) o = andThen o fun s => deliverAll s chunks := by
  cases o with
  | next s => rfl
  | fault r =>
    induction chunks with
    | nil => rfl
    | cons c chunks ih => exact ih
  | refused r =>
    induction chunks with
    | nil => rfl
    | cons c chunks ih => exact ih

theorem deliverAll_cons (s : State) (c : List Byte) (chunks : List (List Byte)) :
    deliverAll s (c :: chunks) = andThen (exec (.sDeliver c) s) fun t => deliverAll t chunks :=
  foldl_deliveries (exec (.sDeliver c) s) chunks

theorem deliverAll_eq_flatten {s : State} {x : Session} (hx : Addressed s x) (chunks : List (List Byte)) :
    deliverAll s chunks = exec (.sDeliver chunks.flatten) s := by
  induction chunks generalizing s x with
  | nil => exact (exec_sDeliver_nil hx).symm
  | cons c chunks ih =>
    rw [deliverAll_cons, List.flatten_cons, exec_sDeliver_append hx, exec_sDeliver_addressed hx, andThen_assoc, andThen_assoc]
    congr 1
    funext y
    exact ih (addressed_putSession hx y)

/-- Settles O22: a delivery of a concatenation is its parts' deliveries in order. -/
theorem chunkingDoesNotMatter : Obligations.ChunkingDoesNotMatter := fun _ _ hx chunks => deliverAll_eq_flatten hx chunks

/-- The first byte of a delivery, where the operation it selects is known. -/
theorem deliver_cons_of_selected {cfg : Config} {op : SelOp} {x : Session} (hsel : selectOp x.regs = some op) (b : Byte)
    (bytes : List Byte) : deliver cfg (b :: bytes) x = deliver cfg bytes (runOp cfg op b x) := by
  rw [deliver, byteStep_eq_next.2 ⟨op, hsel, rfl⟩, andThen_next]

/-! ## The header -/

theorem take_set_self_succ {α : Type} (l : List α) {n : Nat} (h : n < l.length) (a : α) :
    (l.set n a).take (n + 1) = l.take n ++ [a] := by
  rw [List.take_succ_eq_append_getElem (by simpa using h), List.getElem_set_self, List.take_set_of_le le_rfl]

/-- Bytes too few to finish the header are buffered behind those already there (R32 item 7, R166 case i). -/
theorem deliver_of_short {cfg : Config} {chunk : List Byte} {x : Session} (hp : Parsing x.regs)
    (hs : x.regs.state = .awaitingHeader) (hshort : x.regs.hdrCnt.val + chunk.length < 6) :
    ∃ (buf : Vector Byte hdrbufCap) (n : Fin 6),
      deliver cfg chunk x = .next { x with regs := { x.regs with hdrBuf := buf, hdrCnt := n } } ∧
      n.val = x.regs.hdrCnt.val + chunk.length ∧
      buf.toList = x.regs.hdrBuf.toList.take x.regs.hdrCnt.val ++ chunk ++
        x.regs.hdrBuf.toList.drop (x.regs.hdrCnt.val + chunk.length) := by
  induction chunk generalizing x with
  | nil => exact ⟨x.regs.hdrBuf, x.regs.hdrCnt, rfl, rfl, by simp⟩
  | cons b chunk ih =>
    rw [List.length_cons] at hshort
    have count : (x.regs.hdrCnt + 1).val = x.regs.hdrCnt.val + 1 := by omega
    obtain ⟨buf, n, delivered, hn, hbuf⟩ := ih (x := bufferHeaderByte b x) hp hs (by
      change (x.regs.hdrCnt + 1).val + chunk.length < 6
      omega)
    change n.val = (x.regs.hdrCnt + 1).val + chunk.length at hn
    refine ⟨buf, n, ?_, by rw [List.length_cons]; omega, ?_⟩
    · rw [deliver_cons_of_selected (selectOp_hdrBuf hp hs (by omega))]
      exact delivered
    · have inside : x.regs.hdrCnt.val < x.regs.hdrBuf.toList.length := by simp
      have set_byte : (bufferHeaderByte b x).regs.hdrBuf.toList = x.regs.hdrBuf.toList.set x.regs.hdrCnt.val b := rfl
      have set_count : (bufferHeaderByte b x).regs.hdrCnt.val = x.regs.hdrCnt.val + 1 := count
      rw [hbuf, set_byte, set_count, take_set_self_succ _ inside, List.drop_set_of_lt (by omega)]
      simp [Nat.add_assoc, Nat.add_comm 1]

/-- Settles O23: the delivery's effect on the addressed session. -/
theorem shortDeliveryFillsTheHeaderBuffer : Obligations.ShortDeliveryFillsTheHeaderBuffer := by
  intro s x chunk hx hp hs hshort
  obtain ⟨buf, n, delivered, hn, hbuf⟩ := deliver_of_short (cfg := s.cfg) hp hs hshort
  exact ⟨buf, n, onTarget_eq_next.2 ⟨x, _, hx, delivered, rfl⟩, hn, hbuf⟩

/-- The session at a frame's start once the six bytes of a header are stored (R158). -/
def headerStored (b0 b1 b2 b3 b4 b5 : Byte) (x : Session) : Session :=
  { x with regs := { x.regs with hdrBuf := #v[b0, b1, b2, b3, b4, b5], hdr := parseHeader b0 b1 b2 b3 b4 b5 } }

/-- The session at a frame's start after a header with the right magic. -/
def headerAccepted (b0 b1 b2 b3 b4 b5 : Byte) (x : Session) : Session :=
  { x with regs := acceptHeader (parseHeader b0 b1 b2 b3 b4 b5) (headerStored b0 b1 b2 b3 b4 b5 x).regs }

/-- The session at a frame's start after a header with a wrong magic. -/
def headerRejected (b0 b1 b2 b3 b4 b5 : Byte) (x : Session) : Session :=
  raise (.magicMismatch (parseHeader b0 b1 b2 b3 b4 b5)) (headerStored b0 b1 b2 b3 b4 b5 x)

/-- The session at a frame's start after the six bytes of a header. -/
def headerTaken (cfg : Config) (b0 b1 b2 b3 b4 b5 : Byte) (x : Session) : Session :=
  if b1 ++ b0 = cfg.magic then headerAccepted b0 b1 b2 b3 b4 b5 x else headerRejected b0 b1 b2 b3 b4 b5 x

section
variable {cfg : Config} {x : Session} (h : AtFrameStart x.regs) {b0 b1 b2 b3 b4 b5 : Byte}
include h

theorem deliver_header (b0 b1 b2 b3 b4 b5 : Byte) :
    deliver cfg [b0, b1, b2, b3, b4, b5] x = .next (headerTaken cfg b0 b1 b2 b3 b4 b5 x) := by
  obtain ⟨parsing, hs, hcnt⟩ := h
  have short : x.regs.hdrCnt.val + [b0, b1, b2, b3, b4].length < 6 := by simp [hcnt]
  obtain ⟨buf, n, delivered, hn, hbuf⟩ := deliver_of_short (cfg := cfg) parsing hs short
  rw [hcnt] at hn hbuf
  obtain rfl : n = 5 := Fin.ext hn
  have one_left : (x.regs.hdrBuf.toList.drop 5).length = 1 := by
    rw [List.length_drop, Vector.length_toList]
    rfl
  obtain ⟨old, last⟩ := List.length_eq_one_iff.1 one_left
  obtain rfl : buf = #v[b0, b1, b2, b3, b4, old] := by
    apply Vector.toList_inj.1
    rw [hbuf]
    exact congrArg ([b0, b1, b2, b3, b4] ++ ·) last
  change deliver cfg ([b0, b1, b2, b3, b4] ++ [b5]) x = _
  rw [deliver_append, delivered, andThen_next, deliver_singleton]
  refine byteStep_eq_next.2 ⟨.hdrEnd, selectOp_hdrEnd parsing hs rfl, ?_⟩
  have stored : headerStored b0 b1 b2 b3 b4 b5 x =
      { x with
        regs :=
          { x.regs with hdrBuf := #v[b0, b1, b2, b3, b4, b5], hdrCnt := 0, hdr := parseHeader b0 b1 b2 b3 b4 b5 } } := by
    rw [headerStored, ← hcnt]
  rw [headerTaken, headerAccepted, headerRejected, stored]
  rfl

/-- A header with the right magic is accepted (R158). -/
theorem deliver_header_of_match (hm : b1 ++ b0 = cfg.magic) :
    deliver cfg [b0, b1, b2, b3, b4, b5] x = .next (headerAccepted b0 b1 b2 b3 b4 b5 x) := by
  rw [deliver_header h, headerTaken, if_pos hm]

/-- A header with a wrong magic is fatal (R158, R201). -/
theorem deliver_header_of_mismatch (hm : b1 ++ b0 ≠ cfg.magic) :
    deliver cfg [b0, b1, b2, b3, b4, b5] x = .next (headerRejected b0 b1 b2 b3 b4 b5 x) := by
  rw [deliver_header h, headerTaken, if_neg hm]

end

/-- Settles O24: the pattern's bytes are those of a header with the right magic. -/
theorem headerPatternIsAccepted : Obligations.HeaderPatternIsAccepted := by
  refine fun s c d l => ⟨rfl, fun x hx hstart => ?_⟩
  have accepted := deliver_header_of_match hstart (b2 := c) (b3 := d) (b4 := loByte l) (b5 := hiByte l)
    (hiByte_append_loByte s.cfg.magic)
  rw [headerAccepted, headerStored, parseHeader_of_bytes ⟨s.cfg.magic, c, d, l⟩] at accepted
  exact onTarget_eq_next.2 ⟨x, _, hx, accepted, rfl⟩

/-- At a frame's start six bytes with a wrong magic give the one REJECT, and every byte after them is discarded (R156,
R201). -/
theorem exec_sDeliver_of_wrongMagic {s : State} {x : Session} {b0 b1 b2 b3 b4 b5 : Byte} (hx : Addressed s x)
    (hstart : AtFrameStart x.regs) (hm : b1 ++ b0 ≠ s.cfg.magic) (rest : List Byte) :
    exec (.sDeliver (b0 :: b1 :: b2 :: b3 :: b4 :: b5 :: rest)) s =
      .next (putSession s (headerRejected b0 b1 b2 b3 b4 b5 x)) := by
  have six : exec (.sDeliver [b0, b1, b2, b3, b4, b5]) s =
      .next (putSession s (headerRejected b0 b1 b2 b3 b4 b5 x)) :=
    onTarget_eq_next.2 ⟨x, _, hx, deliver_header_of_mismatch hstart hm, rfl⟩
  obtain ⟨⟨is_open, -⟩, -⟩ := hstart
  change exec (.sDeliver ([b0, b1, b2, b3, b4, b5] ++ rest)) s = _
  rw [exec_sDeliver_append hx, six, andThen_next]
  exact exec_sDeliver_of_faulted (addressed_putSession hx (headerRejected b0 b1 b2 b3 b4 b5 x)) is_open rfl rest

/-- Settles O27: fewer bytes than six are only buffered, and the sixth raises the error. -/
theorem wrongMagicIsFatal : Obligations.WrongMagicIsFatal := by
  intro s x b0 b1 b2 b3 b4 b5 hx hstart hm
  refine ⟨fun early short => ?_, ?_, headerRejected b0 b1 b2 b3 b4 b5 x, rfl, rfl, rfl,
    exec_sDeliver_of_wrongMagic hx hstart hm⟩
  · obtain ⟨parsing, hs, hcnt⟩ := hstart
    obtain ⟨buf, n, delivered, -⟩ := deliver_of_short (cfg := s.cfg) (chunk := early) parsing hs
      (by simpa [hcnt] using short)
    obtain ⟨-, no_fault⟩ := parsing
    exact ⟨_, onTarget_eq_next.2 ⟨x, _, hx, delivered, rfl⟩, rfl, no_fault⟩
  · rw [decode_wire_header, if_neg hm]

/-! ## The payload -/

/-- PAY events with consecutive indices, the first being `start` (R159). -/
def payEventsFrom (start : Half) (payload : List Byte) : List OutEvent :=
  payload.mapIdx fun i b => .pay (start + BitVec.ofNat 16 i) b

theorem payEventsFrom_zero (payload : List Byte) : payEventsFrom 0 payload = payEvents payload := by
  simp [payEventsFrom, payEvents]

theorem payEventsFrom_cons (start : Half) (b : Byte) (payload : List Byte) :
    payEventsFrom start (b :: payload) = .pay start b :: payEventsFrom (start + 1) payload := by
  have next_index (i : Nat) : start + BitVec.ofNat 16 (i + 1) = start + 1 + BitVec.ofNat 16 i := by
    rw [BitVec.add_assoc, BitVec.ofNat_add, BitVec.add_comm (BitVec.ofNat 16 i)]
    rfl
  have shifted : (fun (i : Nat) (b : Byte) => OutEvent.pay (start + BitVec.ofNat 16 (i + 1)) b) =
      fun i b => .pay (start + 1 + BitVec.ofNat 16 i) b := by
    funext i b
    rw [next_index]
  rw [payEventsFrom, List.mapIdx_cons, shifted, BitVec.add_zero]
  rfl

/-- The session after the whole payload that was still to come. -/
def payloadTaken (cfg : Config) (payload : List Byte) (x : Session) : Session :=
  { x with
    regs :=
      { x.regs with
        cksum := ckFold cfg.ckStep payload x.regs.cksum, remPayload := 0, state := .awaitingFooter },
    sink := x.sink ++ payEventsFrom (x.regs.hdr.payloadLength - x.regs.remPayload) payload }

/-- Where the payload still to come is due, an empty one meaning that the footer is, the payload's bytes are passed on and
summed, and the footer is due after them (R159, R165). -/
theorem deliver_payload {cfg : Config} {payload : List Byte} {x : Session} (hp : Parsing x.regs)
    (hs : x.regs.state = if x.regs.remPayload = 0 then .awaitingFooter else .awaitingPayload)
    (hrem : x.regs.remPayload.toNat = payload.length) :
    deliver cfg payload x = .next (payloadTaken cfg payload x) := by
  induction payload generalizing x with
  | nil =>
    have none_left : x.regs.remPayload = 0 := BitVec.eq_of_toNat_eq hrem
    have footer : x.regs.state = .awaitingFooter := hs.trans (if_pos none_left)
    have sink : x.sink ++ payEventsFrom (x.regs.hdr.payloadLength - x.regs.remPayload) [] = x.sink := List.append_nil x.sink
    rw [payloadTaken, sink, ckFold_nil, ← none_left, ← footer]
    rfl
  | cons b payload ih =>
    rw [List.length_cons] at hrem
    have due : x.regs.remPayload ≠ 0 := by bv_omega
    have awaiting : x.regs.state = .awaitingPayload := hs.trans (if_neg due)
    have state_after : (payloadByte cfg b x).regs.state =
        if x.regs.remPayload - 1 = 0 then .awaitingFooter else .awaitingPayload := by
      have last_iff : x.regs.remPayload = 1 ↔ x.regs.remPayload - 1 = 0 := by bv_omega
      simp only [payloadByte, emit_regs, awaiting, last_iff]
    have rem_after : (x.regs.remPayload - 1).toNat = payload.length := by bv_omega
    have next_index : x.regs.hdr.payloadLength - (x.regs.remPayload - 1) =
        x.regs.hdr.payloadLength - x.regs.remPayload + 1 := by bv_omega
    have sink_after :
        (payloadByte cfg b x).sink ++ payEventsFrom (x.regs.hdr.payloadLength - (x.regs.remPayload - 1)) payload =
        x.sink ++ payEventsFrom (x.regs.hdr.payloadLength - x.regs.remPayload) (b :: payload) := by
      rw [payEventsFrom_cons, next_index]
      exact (List.append_cons ..).symm
    rw [deliver_cons_of_selected (selectOp_pay hp awaiting due), runOp,
      ih (x := payloadByte cfg b x) hp state_after rem_after, payloadTaken, payloadTaken, ← sink_after]
    rfl

/-! ## The footer -/

/-- The events of a footer, `ck` being the checksum computed (R160, R161). -/
def footerEvents (h : Header) (ck k t : Byte) : List OutEvent :=
  (if k = ck then [] else [.diagCk ck k]) ++
    [if k = ck ∧ t = terminator then .accept h.command h.direction h.payloadLength
     else .reject (footerReason (t != terminator) (k != ck)) h.magic h.command h.direction h.payloadLength]

theorem footerEvents_of_good (h : Header) (ck : Byte) :
    footerEvents h ck ck terminator = [.accept h.command h.direction h.payloadLength] := by
  simp [footerEvents]

theorem footerEvents_of_badChecksum (h : Header) {ck k : Byte} (hk : k ≠ ck) :
    footerEvents h ck k terminator = [.diagCk ck k, .reject 1 h.magic h.command h.direction h.payloadLength] := by
  have reason : footerReason false (k != ck) = 1#3 := by
    rw [bne_iff_ne.2 hk]
    rfl
  simp [footerEvents, hk, reason]

/-- The session after both footer bytes. -/
def footerTaken (k t : Byte) (x : Session) : Session :=
  { x with
    regs := { x.regs with remFooter := 0, ckBad := false, state := .awaitingHeader },
    sink := x.sink ++ footerEvents x.regs.hdr x.regs.cksum k t }

/-- Where a footer is due, its two bytes end the packet, whatever they are (R160, R161). -/
theorem deliver_footer (cfg : Config) {x : Session} (hp : Parsing x.regs) (hs : x.regs.state = .awaitingFooter)
    (hf : x.regs.remFooter = 2) (k t : Byte) :
    deliver cfg [k, t] x = .next (footerTaken k t x) := by
  rw [deliver_cons_of_selected (selectOp_fck hp hs hf), runOp]
  by_cases same : k = x.regs.cksum
  · have good : footerChecksum k x = { x with regs := { x.regs with ckBad := false, remFooter := 1 } } := if_pos same
    rw [good, deliver_singleton]
    refine byteStep_eq_next.2 ⟨.fterm, selectOp_fterm hp hs rfl, ?_⟩
    simp [runOp, footerTaken, footerTerminator, footerEvent, footerEvents, emit, same]
  · have bad : footerChecksum k x =
        { x with
          regs := { x.regs with ckBad := true, remFooter := 1 }, sink := x.sink ++ [.diagCk x.regs.cksum k] } := if_neg same
    have differ : (k != x.regs.cksum) = true := bne_iff_ne.2 same
    rw [bad, deliver_singleton]
    refine byteStep_eq_next.2 ⟨.fterm, selectOp_fterm hp hs rfl, ?_⟩
    simp [runOp, footerTaken, footerTerminator, footerEvent, footerEvents, emit, same, differ]

/-- Settles O25: the events of a footer whose terminator is right. -/
theorem footerPatternEndsThePacket : Obligations.FooterPatternEndsThePacket := by
  refine fun s k => ⟨rfl, fun x hx hp hs hf => ?_⟩
  have events : footerEvents x.regs.hdr x.regs.cksum k terminator =
      if k = x.regs.cksum then [.accept x.regs.hdr.command x.regs.hdr.direction x.regs.hdr.payloadLength]
      else
        [.diagCk x.regs.cksum k,
         .reject 1 x.regs.hdr.magic x.regs.hdr.command x.regs.hdr.direction x.regs.hdr.payloadLength] := by
    split
    · next same => rw [same, footerEvents_of_good]
    · next differ => exact footerEvents_of_badChecksum x.regs.hdr differ
  rw [← events]
  exact onTarget_eq_next.2 ⟨x, _, hx, deliver_footer s.cfg hp hs hf k terminator, rfl⟩

/-- Settles O26: the registers a footer leaves do not mention its bytes. -/
theorem footerErrorsLeaveTheSameRegisters : Obligations.FooterErrorsLeaveTheSameRegisters := fun s x k t hx hp hs hf hc =>
  ⟨_, onTarget_eq_next.2 ⟨x, _, hx, deliver_footer s.cfg hp hs hf k t, rfl⟩, rfl, hp, rfl, hc⟩

/-! ## Whole frames -/

/-- At a frame's start a whole frame with the right magic gives its PAY events and those of its footer, and ends at a frame's
start (R169, R170). -/
theorem deliver_frame {cfg : Config} {x : Session} {b0 b1 b2 b3 b4 b5 : Byte} {payload : List Byte}
    (hstart : AtFrameStart x.regs) (hm : b1 ++ b0 = cfg.magic) (hlen : (b5 ++ b4).toNat = payload.length) (k t : Byte) :
    ∃ y, deliver cfg (b0 :: b1 :: b2 :: b3 :: b4 :: b5 :: (payload ++ [k, t])) x = .next y ∧
      y.sink = x.sink ++ (payEvents payload ++
        footerEvents (parseHeader b0 b1 b2 b3 b4 b5) (ckFold cfg.ckStep payload ckSeed0) k t) ∧
      y.sinkMark = x.sinkMark ∧ AtFrameStart y.regs := by
  change ∃ y, deliver cfg ([b0, b1, b2, b3, b4, b5] ++ (payload ++ [k, t])) x = .next y ∧ _
  rw [deliver_append, deliver_header_of_match hstart hm, andThen_next, deliver_append]
  obtain ⟨parsing, -, hcnt⟩ := hstart
  rw [deliver_payload (x := headerAccepted b0 b1 b2 b3 b4 b5 x) parsing rfl hlen, andThen_next,
    deliver_footer cfg (x := payloadTaken cfg payload (headerAccepted b0 b1 b2 b3 b4 b5 x)) parsing rfl rfl]
  have first_index : (parseHeader b0 b1 b2 b3 b4 b5).payloadLength - (parseHeader b0 b1 b2 b3 b4 b5).payloadLength = 0 :=
    BitVec.sub_self _
  have events : payEventsFrom ((parseHeader b0 b1 b2 b3 b4 b5).payloadLength - (parseHeader b0 b1 b2 b3 b4 b5).payloadLength)
      payload = payEvents payload := by rw [first_index, payEventsFrom_zero]
  refine ⟨_, rfl, ?_, rfl, parsing, rfl, hcnt⟩
  rw [← events, ← List.append_assoc]
  rfl

/-- A well-formed frame gives the events of its packet. -/
theorem deliver_goodFrame {cfg : Config} {x : Session} (command direction : Byte) {payload : List Byte}
    (hstart : AtFrameStart x.regs) (hlen : payload.length ≤ maxPayload) :
    ∃ y, deliver cfg (goodFrame cfg command direction payload) x = .next y ∧
      y.sink = x.sink ++ packetEvents command direction payload ∧ AtFrameStart y.regs := by
  rw [goodFrame_eq]
  obtain ⟨y, delivered, sink, -, at_start⟩ := deliver_frame (b2 := command) (b3 := direction) hstart
    (hiByte_append_loByte cfg.magic) (payloadLength_bytes_toNat hlen) (ckFold cfg.ckStep payload ckSeed0) terminator
  refine ⟨y, delivered, ?_, at_start⟩
  rw [sink, footerEvents_of_good]
  exact congrArg (fun h : Header => x.sink ++ (payEvents payload ++ [.accept h.command h.direction h.payloadLength]))
    (parseHeader_of_bytes (goodHeader cfg command direction payload))

/-- Frames one after the other give their packets' events in order (R170). -/
theorem deliver_packets {cfg : Config} {x : Session} (packets : List (Byte × Byte × List Byte))
    (hstart : AtFrameStart x.regs) (hlen : ∀ p ∈ packets, p.2.2.length ≤ maxPayload) :
    ∃ y, deliver cfg (packets.flatMap fun p => goodFrame cfg p.1 p.2.1 p.2.2) x = .next y ∧
      y.sink = x.sink ++ packets.flatMap (fun p => packetEvents p.1 p.2.1 p.2.2) ∧ AtFrameStart y.regs := by
  induction packets generalizing x with
  | nil => exact ⟨x, rfl, (List.append_nil x.sink).symm, hstart⟩
  | cons p packets ih =>
    obtain ⟨first, rest⟩ := List.forall_mem_cons.1 hlen
    obtain ⟨y, delivered, sink, at_start⟩ := deliver_goodFrame p.1 p.2.1 hstart first
    obtain ⟨z, delivered', sink', at_start'⟩ := ih at_start rest
    refine ⟨z, ?_, ?_, at_start'⟩
    · rw [List.flatMap_cons, deliver_append, delivered, andThen_next, delivered']
    · rw [sink', sink, List.append_assoc, List.flatMap_cons]

/-- Settles O28: the chunks are one delivery of all the frames. -/
theorem backToBackFramesAreAllAccepted : Obligations.BackToBackFramesAreAllAccepted := by
  intro s x packets chunks hx hstart hlen hchunks
  obtain ⟨y, delivered, sink, at_start⟩ := deliver_packets (cfg := s.cfg) packets hstart hlen
  refine ⟨y, ?_, sink, at_start⟩
  rw [deliverAll_eq_flatten hx, hchunks]
  exact onTarget_eq_next.2 ⟨x, y, hx, delivered, rfl⟩

/-! ## The parser and the atomic decoder -/

/-- A byte sequence of exactly one frame's length falls into header, payload and footer. -/
theorem exists_frame_parts {bytes : List Byte} {b4 b5 : Byte} (h4 : bytes[4]? = some b4) (h5 : bytes[5]? = some b5)
    (hlen : bytes.length = 8 + (b5 ++ b4).toNat) :
    ∃ b0 b1 b2 b3 payload k t, bytes = b0 :: b1 :: b2 :: b3 :: b4 :: b5 :: (payload ++ [k, t]) ∧
      (b5 ++ b4).toNat = payload.length := by
  match bytes, h4, h5, hlen with
  | b0 :: b1 :: b2 :: b3 :: c4 :: c5 :: rest, h4, h5, hlen =>
    obtain rfl : c4 = b4 := Option.some.inj h4
    obtain rfl : c5 = b5 := Option.some.inj h5
    simp only [List.length_cons] at hlen
    obtain ⟨k, t, footer⟩ : ∃ k t, rest.drop (c5 ++ c4).toNat = [k, t] :=
      List.length_eq_two.1 (by rw [List.length_drop]; omega)
    refine ⟨b0, b1, b2, b3, rest.take (c5 ++ c4).toNat, k, t, ?_, by rw [List.length_take]; omega⟩
    rw [← footer, List.take_append_drop]

/-- The events of a footer in the words of DEC.VERIFY's reason (R139). -/
theorem footerEvents_eq_of_reason (h : Header) (ck k t : Byte) :
    footerEvents h ck k t =
      if verifyReason (t != terminator) (k != ck) = 0 then [.accept h.command h.direction h.payloadLength]
      else
        (if (verifyReason (t != terminator) (k != ck)).getLsbD 0 = true then [.diagCk ck k] else []) ++
        [.reject ((verifyReason (t != terminator) (k != ck)).setWidth 3) h.magic h.command h.direction h.payloadLength] := by
  have zero_iff : ∀ termBad ckBad : Bool,
      verifyReason termBad ckBad = 0#2 ↔ ckBad = false ∧ termBad = false := by decide
  have widened : ∀ termBad ckBad : Bool, (verifyReason termBad ckBad).setWidth 3 = footerReason termBad ckBad := by decide
  rw [widened, (verifyReason_bits _ _).1]
  by_cases hk : k = ck <;> by_cases ht : t = terminator <;> simp [footerEvents, zero_iff, hk, ht]

/-- Settles O55: both decoders take the magic, the payload and the footer from the same bytes. -/
theorem parserAgreesWithAtomicDecoder : Obligations.ParserAgreesWithAtomicDecoder := by
  intro s x bytes b4 b5 hx h4 h5 hlen
  obtain ⟨b0, b1, b2, b3, payload, k, t, rfl, plen⟩ := exists_frame_parts h4 h5 hlen
  have opened : Addressed (putSession s (resetSession true x)) (resetSession true x) := addressed_putSession hx _
  have fresh : AtFrameStart (resetSession true x).regs := ⟨⟨rfl, rfl⟩, rfl, rfl⟩
  rw [exec_sOpen_addressed hx, andThen_next]
  by_cases magic : b1 ++ b0 = s.cfg.magic
  · obtain ⟨y, delivered, sink, mark, -⟩ := deliver_frame (b2 := b2) (b3 := b3) fresh magic plen k t
    refine ⟨y, ?_, ?_⟩
    · rw [exec_sDeliver_addressed opened]
      change andThen (deliver s.cfg _ _) _ = _
      rw [delivered, andThen_next, putSession_putSession]
    · have trace : sessionTrace y = payEvents payload ++
          footerEvents (parseHeader b0 b1 b2 b3 b4 b5) (ckFold s.cfg.ckStep payload ckSeed0) k t := by
        rw [sessionTrace, sink, mark]
        exact List.drop_left
      rw [decodePacket_frame plen magic]
      simp only [payloadView_frame plen, verifyFooter_frame plen, trace, footerEvents_eq_of_reason]
      rfl
  · refine ⟨headerRejected b0 b1 b2 b3 b4 b5 (resetSession true x), ?_, ?_⟩
    · rw [exec_sDeliver_of_wrongMagic opened fresh magic, putSession_putSession]
    · rw [decodePacket_of_badMagic (by simp) magic]
      exact ⟨_, _, _, _, List.drop_left⟩

end Sys2Proof.Machine
end
